-- ==== Sys2Proof/Word.lean ====
section
/-! DEFINITION. The word types of the core (spec/00_scope.md R5, R7). -/

namespace Sys2Proof

/-- Operands, results, addresses and the program counter: 32-bit words (R5). -/
abbrev Word := BitVec 32

/-- A byte of memory or of the console. -/
abbrev Byte := BitVec 8

/-- A control word, 65 bits (spec/30_encoding.md R80). -/
abbrev Cw := BitVec 65

/-- A CSR address, 12 bits (spec/43_csr_gate.md R210). -/
abbrev CsrAddr := BitVec 12

end Sys2Proof
end

