-- ==== Sys2Proof/Config.lean ====
section
/-! DEFINITION. What an implementation fixes: the parameters of spec/00_scope.md R6, and the one free
value, the byte no rule defines. -/

namespace Sys2Proof

/-- The access sizes, 1, 2 and 4 bytes and no other (spec/20_memory.md R52). -/
inductive Width where
  | byte
  | half
  | word
deriving DecidableEq, Repr

/-- The direction of a request or of a rejected selector (R57, spec/60_exceptions.md R260). -/
inductive AccessKind where
  | load
  | store
deriving DecidableEq, Repr

/-- The call/jump kinds, one of which is exempt from the misprediction check
(spec/41_branch.md R164). -/
inductive JumpKind where
  | jal
  | jalr
deriving DecidableEq, Repr

/-- The sixteen allow-listed CSRs (spec/43_csr_gate.md R211). -/
inductive CsrName where
  | mhartid
  | satp
  | pmpcfg0
  | pmpaddr0
  | mstatus
  | misa
  | medeleg
  | mideleg
  | mie
  | mtvec
  | mepc
  | mnstatus
  | mcycle
  | mcycleh
  | minstret
  | minstreth
deriving DecidableEq, Repr

/-- The allow-list in the order of R211, control/status registers first (the order of R212). -/
def CsrName.all : List CsrName :=
  [.mhartid, .satp, .pmpcfg0, .pmpaddr0, .mstatus, .misa, .medeleg, .mideleg, .mie, .mtvec, .mepc,
   .mnstatus, .mcycle, .mcycleh, .minstret, .minstreth]

/-- The control/status group of R211: all but the four counter halves. -/
def CsrName.isControl : CsrName → Bool
  | .mcycle | .mcycleh | .minstret | .minstreth => false
  | .mhartid | .satp | .pmpcfg0 | .pmpaddr0 | .mstatus | .misa | .medeleg | .mideleg | .mie | .mtvec
  | .mepc | .mnstatus => true

/-- The parameter table `CSR_ADDR` (R211). -/
structure CsrTable where
  mhartid : CsrAddr
  satp : CsrAddr
  pmpcfg0 : CsrAddr
  pmpaddr0 : CsrAddr
  mstatus : CsrAddr
  misa : CsrAddr
  medeleg : CsrAddr
  mideleg : CsrAddr
  mie : CsrAddr
  mtvec : CsrAddr
  mepc : CsrAddr
  mnstatus : CsrAddr
  mcycle : CsrAddr
  mcycleh : CsrAddr
  minstret : CsrAddr
  minstreth : CsrAddr
deriving DecidableEq, Repr

/-- `CSR_ADDR[name]`. -/
def CsrTable.addr (t : CsrTable) : CsrName → CsrAddr
  | .mhartid => t.mhartid
  | .satp => t.satp
  | .pmpcfg0 => t.pmpcfg0
  | .pmpaddr0 => t.pmpaddr0
  | .mstatus => t.mstatus
  | .misa => t.misa
  | .medeleg => t.medeleg
  | .mideleg => t.mideleg
  | .mie => t.mie
  | .mtvec => t.mtvec
  | .mepc => t.mepc
  | .mnstatus => t.mnstatus
  | .mcycle => t.mcycle
  | .mcycleh => t.mcycleh
  | .minstret => t.minstret
  | .minstreth => t.minstreth

/-- A request as `MemAdmits(addr, n, kind)` sees it (spec/20_memory.md R57). -/
structure MemKey where
  addr : Word
  width : Width
  kind : AccessKind
deriving DecidableEq, Repr

/-- The parameters of spec/00_scope.md R6, as plain data. DESIGN CHOICE (safe): every statement holds for
every value of them, because they stand in State and no rule fixes them. -/
structure Config where
  /-- `IO_COUT_ADDR`. -/
  coutAddr : Word
  /-- `IO_COUT_SIZE`, in bytes. -/
  coutSize : Nat
  /-- `EXEMPT_JUMP` (spec/41_branch.md R164). -/
  exemptJump : JumpKind
  /-- `CSR_ADDR` (spec/43_csr_gate.md R211). -/
  csrAddr : CsrTable
  /-- `RESET_PC`. -/
  resetPc : Word
  /-- `MEM_INIT`. -/
  memInit : List Host.Cell
  /-- The requests for which `MemAdmits` is false; every predicate is such a list. -/
  memRefused : List MemKey
  /-- `FETCH_SEES_STORES` (spec/20_memory.md R66). No step reads it, because fetch lies outside the core
  (spec/00_scope.md R4): a model "must not assume either answer". -/
  fetchSeesStores : Bool
  /-- What the ALU's `NONE` tag answers: 0 by spec/40_alu.md R123, any value by
  spec/93_implementation_defined.md U1. -/
  noneResult : Word
deriving DecidableEq, Repr

/-- FREE VALUE: what a load takes for a byte that nothing has written and `MEM_INIT` does not cover
(spec/10_state.md R38: it "has no defined value"). It has no body: nothing in Lean says what it is. -/
opaque Config.undefinedByte : Word → Byte

end Sys2Proof
end

