-- ==== Sys2Proof/Syntax.lean ====
section
/-! DEFINITION. The rows of the opcode table as one inductive type, and the decoded control word that
selects one row of each of the three groups (spec/30_encoding.md R80 to R88). -/

namespace Sys2Proof

/-- The operand fields an ALU row reads (R81 to R83): the three first-operand flags, the
second-operand flag, the literal index and the immediate. -/
structure AluOperands where
  s1Pc : Bool
  s1Idx : Bool
  s1Inv : Bool
  s2Imm : Bool
  rs1Idx : BitVec 5
  imm : Word
deriving DecidableEq, Repr

/-- All operand fields zero: the defaults of R94. -/
def AluOperands.zero : AluOperands :=
  { s1Pc := false, s1Idx := false, s1Inv := false, s2Imm := false, rs1Idx := 0#5, imm := 0#32 }

/-- One row of spec/opcode_table.json: an operation of one unit. A control word selects three, one of
each group (R88). ALU rows carry the operand fields; the CSR row and the class-less row carry the
selector they ignore (R89), the CSR row also the address `imm[11:0]` (R82, R210). -/
inductive Instr where
  | aluNone (o : AluOperands)
  | aluAdd (o : AluOperands)
  | aluSub (o : AluOperands)
  | aluAnd (o : AluOperands)
  | aluOr (o : AluOperands)
  | aluXor (o : AluOperands)
  | aluSll (o : AluOperands)
  | aluSrl (o : AluOperands)
  | aluSra (o : AluOperands)
  | aluLt (o : AluOperands)
  | aluLtu (o : AluOperands)
  | aluReserved11 (o : AluOperands)
  | aluReserved12 (o : AluOperands)
  | aluReserved13 (o : AluOperands)
  | aluReserved14 (o : AluOperands)
  | aluReserved15 (o : AluOperands)
  | brNone
  | brJal
  | brJalr
  | brBeq
  | brBne
  | brBlt
  | brBge
  | brBltu
  | brBgeu
  | brReserved9
  | brReserved10
  | brReserved11
  | brReserved12
  | brReserved13
  | brReserved14
  | brReserved15
  | memLb
  | memLh
  | memLw
  | memLbu
  | memLhu
  | memLoadReserved3
  | memLoadReserved6
  | memLoadReserved7
  | memSb
  | memSh
  | memSw
  | memStoreReserved3
  | memStoreReserved4
  | memStoreReserved5
  | memStoreReserved6
  | memStoreReserved7
  | memCsr (fsel : BitVec 3) (addr : CsrAddr)
  | memNone (fsel : BitVec 3)
deriving DecidableEq, Repr

/-- The three groups of rows (R88). -/
inductive Group where
  | alu
  | bru
  | mau
deriving DecidableEq, Repr

/-- The unit a row belongs to, its "unit" in the opcode table. -/
def Instr.group : Instr → Group
  | .aluNone _ | .aluAdd _ | .aluSub _ | .aluAnd _ | .aluOr _ | .aluXor _ | .aluSll _ | .aluSrl _
  | .aluSra _ | .aluLt _ | .aluLtu _ | .aluReserved11 _ | .aluReserved12 _ | .aluReserved13 _
  | .aluReserved14 _ | .aluReserved15 _ => .alu
  | .brNone | .brJal | .brJalr | .brBeq | .brBne | .brBlt | .brBge | .brBltu | .brBgeu
  | .brReserved9 | .brReserved10 | .brReserved11 | .brReserved12 | .brReserved13 | .brReserved14
  | .brReserved15 => .bru
  | .memLb | .memLh | .memLw | .memLbu | .memLhu | .memLoadReserved3 | .memLoadReserved6
  | .memLoadReserved7 | .memSb | .memSh | .memSw | .memStoreReserved3 | .memStoreReserved4
  | .memStoreReserved5 | .memStoreReserved6 | .memStoreReserved7 | .memCsr _ _ | .memNone _ => .mau

/-- The operand fields of an ALU row; zero for the rows of the other groups. -/
def Instr.operands : Instr → AluOperands
  | .aluNone o | .aluAdd o | .aluSub o | .aluAnd o | .aluOr o | .aluXor o | .aluSll o | .aluSrl o
  | .aluSra o | .aluLt o | .aluLtu o | .aluReserved11 o | .aluReserved12 o | .aluReserved13 o
  | .aluReserved14 o | .aluReserved15 o => o
  | .brNone | .brJal | .brJalr | .brBeq | .brBne | .brBlt | .brBge | .brBltu | .brBgeu
  | .brReserved9 | .brReserved10 | .brReserved11 | .brReserved12 | .brReserved13 | .brReserved14
  | .brReserved15 | .memLb | .memLh | .memLw | .memLbu | .memLhu | .memLoadReserved3
  | .memLoadReserved6 | .memLoadReserved7 | .memSb | .memSh | .memSw | .memStoreReserved3
  | .memStoreReserved4 | .memStoreReserved5 | .memStoreReserved6 | .memStoreReserved7
  | .memCsr _ _ | .memNone _ => AluOperands.zero

/-- A decoded control word: its row in each group and the two index fields no rule of the core
reads (R83). -/
structure Decoded where
  alu : Instr
  bru : Instr
  mau : Instr
  rs2Idx : BitVec 5
  rdIdx : BitVec 5
deriving DecidableEq, Repr

/-- Why a control word is refused (R90): it sets two of the class flags, or a class flag beside a
branch tag. -/
inductive DecodeError where
  | twoClassFlags
  | classFlagOnBranch
deriving DecidableEq, Repr

end Sys2Proof
end

