-- ==== Sys2Proof/WellFormed.lean ====
section
/-! DEFINITION. Well-formed decoded words (spec/30_encoding.md R88, R90), the canonical form of memory, and
well-formed parameters. -/

namespace Sys2Proof

/-- The row is the class-less row `MEM.NONE`. -/
def Instr.isMemNone : Instr → Bool
  | .memNone _ => true
  | .aluNone _ | .aluAdd _ | .aluSub _ | .aluAnd _ | .aluOr _ | .aluXor _ | .aluSll _ | .aluSrl _
  | .aluSra _ | .aluLt _ | .aluLtu _ | .aluReserved11 _ | .aluReserved12 _ | .aluReserved13 _
  | .aluReserved14 _ | .aluReserved15 _
  | .brNone | .brJal | .brJalr | .brBeq | .brBne | .brBlt | .brBge | .brBltu | .brBgeu
  | .brReserved9 | .brReserved10 | .brReserved11 | .brReserved12 | .brReserved13 | .brReserved14
  | .brReserved15
  | .memLb | .memLh | .memLw | .memLbu | .memLhu | .memLoadReserved3 | .memLoadReserved6
  | .memLoadReserved7 | .memSb | .memSh | .memSw | .memStoreReserved3 | .memStoreReserved4
  | .memStoreReserved5 | .memStoreReserved6 | .memStoreReserved7 | .memCsr _ _ => false

/-- The CSR row names the address its word carries: `imm[11:0]` (R82, spec/43_csr_gate.md R210). -/
def Instr.carriedBy (i : Instr) (imm : Word) : Bool :=
  match i with
  | .memCsr _ a => a == imm.extractLsb' 0 12
  | .memNone _
  | .aluNone _ | .aluAdd _ | .aluSub _ | .aluAnd _ | .aluOr _ | .aluXor _ | .aluSll _ | .aluSrl _
  | .aluSra _ | .aluLt _ | .aluLtu _ | .aluReserved11 _ | .aluReserved12 _ | .aluReserved13 _
  | .aluReserved14 _ | .aluReserved15 _
  | .brNone | .brJal | .brJalr | .brBeq | .brBne | .brBlt | .brBge | .brBltu | .brBgeu
  | .brReserved9 | .brReserved10 | .brReserved11 | .brReserved12 | .brReserved13 | .brReserved14
  | .brReserved15
  | .memLb | .memLh | .memLw | .memLbu | .memLhu | .memLoadReserved3 | .memLoadReserved6
  | .memLoadReserved7 | .memSb | .memSh | .memSw | .memStoreReserved3 | .memStoreReserved4
  | .memStoreReserved5 | .memStoreReserved6 | .memStoreReserved7 => true

/-- A decoded word is well-formed: each row belongs to its group (R88), a branch-class word has no
memory class (R90; a decoded word has at most one memory class by its type), and a CSR row names the
address the immediate carries. -/
def Decoded.wellFormed (d : Decoded) : Bool :=
  d.alu.group == .alu && d.bru.group == .bru && d.mau.group == .mau
    && (d.bru == .brNone || d.mau.isMemNone) && d.mau.carriedBy d.alu.operands.imm

/-- Cells at rising addresses from `lo` on, all inside the 32-bit address space. -/
def Memory.wfFrom (lo : Nat) : List Host.Cell → Bool
  | [] => true
  | (a, _) :: rest => lo ≤ a && a < 2 ^ 32 && Memory.wfFrom (a + 1) rest

/-- The canonical form of memory: addresses strictly rising and below 2^32. An unlisted address has no
value, so no entry can equal what an unlisted address reads as. -/
def Memory.wf (m : List Host.Cell) : Bool := Memory.wfFrom 0 m

/-- The conditions R6, R211 put on the parameters: the console window ends inside the address space,
the sixteen CSR addresses are distinct, `MEM_INIT` is canonical. -/
def Config.wf (c : Config) : Bool :=
  c.coutAddr.toNat + c.coutSize ≤ 2 ^ 32 && (CsrName.all.map c.csrAddr.addr).Nodup
    && Memory.wf c.memInit

end Sys2Proof
end

