-- ==== Sys2Proof/Decode.lean ====
section
/-! DEFINITION. Decoding a 65-bit control word into its three rows, total, refusing by name
(spec/30_encoding.md R80 to R91), and the encoder from the same layout. -/

namespace Sys2Proof

/-! ## The fields of a control word (R80) -/

/-- Bits 3:0. -/
def Cw.aluOp (w : Cw) : BitVec 4 := w.extractLsb' 0 4

/-- Bits 7:4. -/
def Cw.brOp (w : Cw) : BitVec 4 := w.extractLsb' 4 4

/-- Bits 10:8. -/
def Cw.fsel (w : Cw) : BitVec 3 := w.extractLsb' 8 3

/-- Bit 11. -/
def Cw.isLoad (w : Cw) : Bool := w.getLsbD 11

/-- Bit 12. -/
def Cw.isStore (w : Cw) : Bool := w.getLsbD 12

/-- Bit 13. -/
def Cw.isCsr (w : Cw) : Bool := w.getLsbD 13

/-- Bits 27:23. -/
def Cw.rs2Idx (w : Cw) : BitVec 5 := w.extractLsb' 23 5

/-- Bits 32:28. -/
def Cw.rdIdx (w : Cw) : BitVec 5 := w.extractLsb' 28 5

/-- Bits 64:33. -/
def Cw.imm (w : Cw) : Word := w.extractLsb' 33 32

/-- `imm[11:0]`, the CSR address of a CSR-class word (spec/43_csr_gate.md R210). -/
def Cw.csrAddr (w : Cw) : CsrAddr := (Cw.imm w).extractLsb' 0 12

/-- The operand fields: bits 14 to 17, bits 22:18 and the immediate. -/
def Cw.operands (w : Cw) : AluOperands :=
  { s1Pc := w.getLsbD 14, s1Idx := w.getLsbD 15, s1Inv := w.getLsbD 16, s2Imm := w.getLsbD 17,
    rs1Idx := w.extractLsb' 18 5, imm := Cw.imm w }

/-- A word's own well-formedness (R90): at most one of branch-class, load, store, CSR. -/
def Cw.wellFormed (w : Cw) : Bool :=
  (Cw.brOp w != 0#4).toNat + (Cw.isLoad w).toNat + (Cw.isStore w).toNat + (Cw.isCsr w).toNat ≤ 1

/-! ## Decoding -/

/-- The ALU row of tag `t` (R84). -/
def decodeAlu (t : BitVec 4) (o : AluOperands) : Instr :=
  match t.toNat with
  | 0 => .aluNone o
  | 1 => .aluAdd o
  | 2 => .aluSub o
  | 3 => .aluAnd o
  | 4 => .aluOr o
  | 5 => .aluXor o
  | 6 => .aluSll o
  | 7 => .aluSrl o
  | 8 => .aluSra o
  | 9 => .aluLt o
  | 10 => .aluLtu o
  | 11 => .aluReserved11 o
  | 12 => .aluReserved12 o
  | 13 => .aluReserved13 o
  | 14 => .aluReserved14 o
  | _ => .aluReserved15 o

/-- The BRU row of tag `t` (R85). -/
def decodeBru (t : BitVec 4) : Instr :=
  match t.toNat with
  | 0 => .brNone
  | 1 => .brJal
  | 2 => .brJalr
  | 3 => .brBeq
  | 4 => .brBne
  | 5 => .brBlt
  | 6 => .brBge
  | 7 => .brBltu
  | 8 => .brBgeu
  | 9 => .brReserved9
  | 10 => .brReserved10
  | 11 => .brReserved11
  | 12 => .brReserved12
  | 13 => .brReserved13
  | 14 => .brReserved14
  | _ => .brReserved15

/-- The load row of a selector (R86). -/
def decodeLoad (fsel : BitVec 3) : Instr :=
  match fsel.toNat with
  | 0 => .memLb
  | 1 => .memLh
  | 2 => .memLw
  | 3 => .memLoadReserved3
  | 4 => .memLbu
  | 5 => .memLhu
  | 6 => .memLoadReserved6
  | _ => .memLoadReserved7

/-- The store row of a selector (R86). -/
def decodeStore (fsel : BitVec 3) : Instr :=
  match fsel.toNat with
  | 0 => .memSb
  | 1 => .memSh
  | 2 => .memSw
  | 3 => .memStoreReserved3
  | 4 => .memStoreReserved4
  | 5 => .memStoreReserved5
  | 6 => .memStoreReserved6
  | _ => .memStoreReserved7

/-- The MAU row the class flags and the selector name (R87); two flags are refused (R90). -/
def decodeMau (w : Cw) : Except DecodeError Instr :=
  match Cw.isLoad w, Cw.isStore w, Cw.isCsr w with
  | true, false, false => .ok (decodeLoad (Cw.fsel w))
  | false, true, false => .ok (decodeStore (Cw.fsel w))
  | false, false, true => .ok (.memCsr (Cw.fsel w) (Cw.csrAddr w))
  | false, false, false => .ok (.memNone (Cw.fsel w))
  | true, true, true => .error .twoClassFlags
  | true, true, false => .error .twoClassFlags
  | true, false, true => .error .twoClassFlags
  | false, true, true => .error .twoClassFlags

/-- The decoder: a row of each group (R88), or a refusal by name (R90). Reserved tags and selectors are
rows of their own, which fault when executed (R91). -/
def decode (w : Cw) : Except DecodeError Decoded :=
  match decodeMau w with
  | .error e => .error e
  | .ok m =>
    if Cw.brOp w = 0#4 ∨ m.isMemNone = true then
      .ok { alu := decodeAlu (Cw.aluOp w) (Cw.operands w), bru := decodeBru (Cw.brOp w), mau := m,
            rs2Idx := Cw.rs2Idx w, rdIdx := Cw.rdIdx w }
    else .error .classFlagOnBranch

/-! ## Encoding -/

/-- `alu_op` of an ALU row (R84). -/
def Instr.aluTag : Instr → Nat
  | .aluNone _ => 0
  | .aluAdd _ => 1
  | .aluSub _ => 2
  | .aluAnd _ => 3
  | .aluOr _ => 4
  | .aluXor _ => 5
  | .aluSll _ => 6
  | .aluSrl _ => 7
  | .aluSra _ => 8
  | .aluLt _ => 9
  | .aluLtu _ => 10
  | .aluReserved11 _ => 11
  | .aluReserved12 _ => 12
  | .aluReserved13 _ => 13
  | .aluReserved14 _ => 14
  | .aluReserved15 _ => 15
  | .brNone | .brJal | .brJalr | .brBeq | .brBne | .brBlt | .brBge | .brBltu | .brBgeu
  | .brReserved9 | .brReserved10 | .brReserved11 | .brReserved12 | .brReserved13
  | .brReserved14 | .brReserved15 | .memLb | .memLh | .memLw | .memLbu | .memLhu
  | .memLoadReserved3 | .memLoadReserved6 | .memLoadReserved7 | .memSb | .memSh | .memSw
  | .memStoreReserved3 | .memStoreReserved4 | .memStoreReserved5 | .memStoreReserved6
  | .memStoreReserved7 | .memCsr _ _ | .memNone _ => 0

/-- `br_op` of a BRU row (R85). -/
def Instr.brTag : Instr → Nat
  | .brNone => 0
  | .brJal => 1
  | .brJalr => 2
  | .brBeq => 3
  | .brBne => 4
  | .brBlt => 5
  | .brBge => 6
  | .brBltu => 7
  | .brBgeu => 8
  | .brReserved9 => 9
  | .brReserved10 => 10
  | .brReserved11 => 11
  | .brReserved12 => 12
  | .brReserved13 => 13
  | .brReserved14 => 14
  | .brReserved15 => 15
  | .aluNone _ | .aluAdd _ | .aluSub _ | .aluAnd _ | .aluOr _ | .aluXor _ | .aluSll _
  | .aluSrl _ | .aluSra _ | .aluLt _ | .aluLtu _ | .aluReserved11 _ | .aluReserved12 _
  | .aluReserved13 _ | .aluReserved14 _ | .aluReserved15 _ | .memLb | .memLh | .memLw | .memLbu
  | .memLhu | .memLoadReserved3 | .memLoadReserved6 | .memLoadReserved7 | .memSb | .memSh
  | .memSw | .memStoreReserved3 | .memStoreReserved4 | .memStoreReserved5 | .memStoreReserved6
  | .memStoreReserved7 | .memCsr _ _ | .memNone _ => 0

/-- Bits 13:8 of a MAU row, the class flags above the selector (R86, R87). -/
def Instr.memBits : Instr → Nat
  | .memLb => 8
  | .memLh => 9
  | .memLw => 10
  | .memLbu => 12
  | .memLhu => 13
  | .memLoadReserved3 => 11
  | .memLoadReserved6 => 14
  | .memLoadReserved7 => 15
  | .memSb => 16
  | .memSh => 17
  | .memSw => 18
  | .memStoreReserved3 => 19
  | .memStoreReserved4 => 20
  | .memStoreReserved5 => 21
  | .memStoreReserved6 => 22
  | .memStoreReserved7 => 23
  | .memCsr fsel _ => 32 + fsel.toNat
  | .memNone fsel => fsel.toNat
  | .aluNone _ | .aluAdd _ | .aluSub _ | .aluAnd _ | .aluOr _ | .aluXor _ | .aluSll _
  | .aluSrl _ | .aluSra _ | .aluLt _ | .aluLtu _ | .aluReserved11 _ | .aluReserved12 _
  | .aluReserved13 _ | .aluReserved14 _ | .aluReserved15 _ | .brNone | .brJal | .brJalr
  | .brBeq | .brBne | .brBlt | .brBge | .brBltu | .brBgeu | .brReserved9 | .brReserved10
  | .brReserved11 | .brReserved12 | .brReserved13 | .brReserved14 | .brReserved15 => 0

/-- Bits 17:14 of the operand fields (R81). -/
def AluOperands.flagBits (o : AluOperands) : Nat :=
  o.s1Pc.toNat + 2 * o.s1Idx.toNat + 4 * o.s1Inv.toNat + 8 * o.s2Imm.toNat

/-- The encoder: the sum of R80. -/
def encode (d : Decoded) : Cw :=
  BitVec.ofNat 65
    (d.alu.aluTag + d.bru.brTag * 2 ^ 4 + d.mau.memBits * 2 ^ 8 + d.alu.operands.flagBits * 2 ^ 14
      + d.alu.operands.rs1Idx.toNat * 2 ^ 18 + d.rs2Idx.toNat * 2 ^ 23 + d.rdIdx.toNat * 2 ^ 28
      + d.alu.operands.imm.toNat * 2 ^ 33)

/-- A row alone in a word: the other groups at `NONE` and every other field 0, except that the CSR row's
word carries its address in the immediate. -/
def Instr.asDecoded (i : Instr) : Decoded :=
  match i with
  | .aluNone _ | .aluAdd _ | .aluSub _ | .aluAnd _ | .aluOr _ | .aluXor _ | .aluSll _
  | .aluSrl _ | .aluSra _ | .aluLt _ | .aluLtu _ | .aluReserved11 _ | .aluReserved12 _
  | .aluReserved13 _ | .aluReserved14 _ | .aluReserved15 _ => { alu := i, bru := .brNone, mau := .memNone 0#3, rs2Idx := 0#5, rdIdx := 0#5 }
  | .brNone | .brJal | .brJalr | .brBeq | .brBne | .brBlt | .brBge | .brBltu | .brBgeu
  | .brReserved9 | .brReserved10 | .brReserved11 | .brReserved12 | .brReserved13
  | .brReserved14 | .brReserved15 => { alu := .aluNone .zero, bru := i, mau := .memNone 0#3, rs2Idx := 0#5, rdIdx := 0#5 }
  | .memCsr fsel addr =>
    { alu := .aluNone { AluOperands.zero with imm := addr.setWidth 32 }, bru := .brNone,
      mau := .memCsr fsel addr, rs2Idx := 0#5, rdIdx := 0#5 }
  | .memLb | .memLh | .memLw | .memLbu | .memLhu | .memLoadReserved3 | .memLoadReserved6
  | .memLoadReserved7 | .memSb | .memSh | .memSw | .memStoreReserved3 | .memStoreReserved4
  | .memStoreReserved5 | .memStoreReserved6 | .memStoreReserved7 | .memNone _ =>
    { alu := .aluNone .zero, bru := .brNone, mau := i, rs2Idx := 0#5, rdIdx := 0#5 }

/-- The word of a row alone. -/
def encodeInstr (i : Instr) : Cw := encode i.asDecoded

/-! ## The opcode table -/

/-- "match" of the row in spec/opcode_table.json. -/
def Instr.rowMatch : Instr → Cw
  | .aluNone _ => 0x0#65
  | .aluAdd _ => 0x1#65
  | .aluSub _ => 0x2#65
  | .aluAnd _ => 0x3#65
  | .aluOr _ => 0x4#65
  | .aluXor _ => 0x5#65
  | .aluSll _ => 0x6#65
  | .aluSrl _ => 0x7#65
  | .aluSra _ => 0x8#65
  | .aluLt _ => 0x9#65
  | .aluLtu _ => 0xa#65
  | .aluReserved11 _ => 0xb#65
  | .aluReserved12 _ => 0xc#65
  | .aluReserved13 _ => 0xd#65
  | .aluReserved14 _ => 0xe#65
  | .aluReserved15 _ => 0xf#65
  | .brNone => 0x0#65
  | .brJal => 0x10#65
  | .brJalr => 0x20#65
  | .brBeq => 0x30#65
  | .brBne => 0x40#65
  | .brBlt => 0x50#65
  | .brBge => 0x60#65
  | .brBltu => 0x70#65
  | .brBgeu => 0x80#65
  | .brReserved9 => 0x90#65
  | .brReserved10 => 0xa0#65
  | .brReserved11 => 0xb0#65
  | .brReserved12 => 0xc0#65
  | .brReserved13 => 0xd0#65
  | .brReserved14 => 0xe0#65
  | .brReserved15 => 0xf0#65
  | .memLb => 0x800#65
  | .memLh => 0x900#65
  | .memLw => 0xa00#65
  | .memLbu => 0xc00#65
  | .memLhu => 0xd00#65
  | .memLoadReserved3 => 0xb00#65
  | .memLoadReserved6 => 0xe00#65
  | .memLoadReserved7 => 0xf00#65
  | .memSb => 0x1000#65
  | .memSh => 0x1100#65
  | .memSw => 0x1200#65
  | .memStoreReserved3 => 0x1300#65
  | .memStoreReserved4 => 0x1400#65
  | .memStoreReserved5 => 0x1500#65
  | .memStoreReserved6 => 0x1600#65
  | .memStoreReserved7 => 0x1700#65
  | .memCsr _ _ => 0x2000#65
  | .memNone _ => 0x0#65

/-- "mask" of the row in spec/opcode_table.json. -/
def Instr.rowMask : Instr → Cw
  | .aluNone _ => 0xf#65
  | .aluAdd _ => 0xf#65
  | .aluSub _ => 0xf#65
  | .aluAnd _ => 0xf#65
  | .aluOr _ => 0xf#65
  | .aluXor _ => 0xf#65
  | .aluSll _ => 0xf#65
  | .aluSrl _ => 0xf#65
  | .aluSra _ => 0xf#65
  | .aluLt _ => 0xf#65
  | .aluLtu _ => 0xf#65
  | .aluReserved11 _ => 0xf#65
  | .aluReserved12 _ => 0xf#65
  | .aluReserved13 _ => 0xf#65
  | .aluReserved14 _ => 0xf#65
  | .aluReserved15 _ => 0xf#65
  | .brNone => 0xf0#65
  | .brJal => 0xf0#65
  | .brJalr => 0xf0#65
  | .brBeq => 0xf0#65
  | .brBne => 0xf0#65
  | .brBlt => 0xf0#65
  | .brBge => 0xf0#65
  | .brBltu => 0xf0#65
  | .brBgeu => 0xf0#65
  | .brReserved9 => 0xf0#65
  | .brReserved10 => 0xf0#65
  | .brReserved11 => 0xf0#65
  | .brReserved12 => 0xf0#65
  | .brReserved13 => 0xf0#65
  | .brReserved14 => 0xf0#65
  | .brReserved15 => 0xf0#65
  | .memLb => 0x3f00#65
  | .memLh => 0x3f00#65
  | .memLw => 0x3f00#65
  | .memLbu => 0x3f00#65
  | .memLhu => 0x3f00#65
  | .memLoadReserved3 => 0x3f00#65
  | .memLoadReserved6 => 0x3f00#65
  | .memLoadReserved7 => 0x3f00#65
  | .memSb => 0x3f00#65
  | .memSh => 0x3f00#65
  | .memSw => 0x3f00#65
  | .memStoreReserved3 => 0x3f00#65
  | .memStoreReserved4 => 0x3f00#65
  | .memStoreReserved5 => 0x3f00#65
  | .memStoreReserved6 => 0x3f00#65
  | .memStoreReserved7 => 0x3f00#65
  | .memCsr _ _ => 0x3800#65
  | .memNone _ => 0x3800#65

/-- The row a decoded word is named by where one row must stand for it: its branch kind, else its
memory class, else its ALU operation. DESIGN CHOICE (safe): only `decodeTableWord` reads it. -/
def Decoded.principal (d : Decoded) : Instr :=
  if d.bru ≠ .brNone then d.bru else if d.mau.isMemNone then d.alu else d.mau

/-- The instruction of a table word: bit 0 is the least significant bit, the bits at and above `nbits`
are zero, and a control word has 65 bits, so a number from 2^65 on is no word of the table. -/
def decodeTableWord (nbits w : Nat) : Option Instr :=
  if w % 2 ^ nbits < 2 ^ 65 then
    match decode (BitVec.ofNat 65 (w % 2 ^ nbits)) with
    | .ok d => some d.principal
    | .error _ => none
  else none

end Sys2Proof
end

