-- ==== Sys2Proof/Machine/Defaults.lean ====
section
/-! DEFINITION. The parameter values `State.reset` starts from: the spec's defaults where it gives one, else
the test instance of spec/95_test_vectors.md sections 2.4 and 3. No statement rests on them. -/

namespace Sys2Proof

/-- The default CSR addresses of spec/43_csr_gate.md R211. -/
def CsrTable.standard : CsrTable :=
  { mhartid := 0xF14#12, satp := 0x180#12, pmpcfg0 := 0x3A0#12, pmpaddr0 := 0x3B0#12,
    mstatus := 0x300#12, misa := 0x301#12, medeleg := 0x302#12, mideleg := 0x303#12,
    mie := 0x304#12, mtvec := 0x305#12, mepc := 0x341#12, mnstatus := 0x744#12,
    mcycle := 0xB00#12, mcycleh := 0xB80#12, minstret := 0xB02#12, minstreth := 0xB82#12 }

/-- The parameters of `State.reset`. DESIGN CHOICE (unsafe for claims about runs from `State.reset` only):
window, reset address, empty `MEM_INIT`, an all-admitting memory and `FETCH_SEES_STORES` false are one
instance of the OPEN parameters. -/
def Config.standard : Config :=
  { coutAddr := 0x10000000#32, coutSize := 64, exemptJump := .jal, csrAddr := CsrTable.standard,
    resetPc := 0#32, memInit := [], memRefused := [], fetchSeesStores := false,
    noneResult := 0#32 }

end Sys2Proof
end

