-- ==== Sys2Proof/Machine/State.lean ====
section
/-! DEFINITION. The machine's state as plain data (spec/10_state.md), the reasons a step stops, and the
state after reset (R38). -/

namespace Sys2Proof.Machine

/-- The payload of a full fetch/decode latch, which no rule of the core reads (R22): the fetched
instruction, its address and its identifier. -/
structure Fetched where
  inst : Nat
  addr : Word
  uid : Nat
deriving DecidableEq, Repr

/-- A full decode/execute latch (R23, R30): the control word, the instruction's address and the
identifier used only for diagnostics (R36). -/
structure Slot where
  cw : Cw
  pc : Word
  uid : Nat
deriving DecidableEq, Repr

/-- What the surrounding pipeline makes of its own registers between two steps (R21, R22, R24). -/
structure FrontEnd where
  pc : Word
  ifid : Option Fetched
  fetchStalled : Bool
deriving DecidableEq, Repr

/-- The inputs of one coming cycle (R30, R31, R34): a slot or a bubble, operands, counters, and the
front end's update, if it makes one. -/
structure CycleInput where
  idex : Option Slot
  rs1Value : Word
  rs2Value : Word
  cycles : BitVec 64
  instrs : BitVec 64
  front : Option FrontEnd
deriving DecidableEq, Repr

/-- A request to the memory subsystem with its data (R32): `rdata` of a read and `wdata` of a write,
of which R32 calls the low `8 * size` bits significant. DESIGN CHOICE (unsafe for claims about the rest,
log 33): the bits above them are zero. -/
inductive MemRequest where
  | read (addr : Word) (width : Width) (rdata : Word)
  | write (addr : Word) (width : Width) (wdata : Word)
deriving DecidableEq, Repr

/-- A write to the console sink (R33); the address is not passed (spec/20_memory.md R59). Of `data` R33 calls
the low `8 * size` bits significant. DESIGN CHOICE (unsafe for claims about the rest, log 33): the bits above
them are zero. -/
structure ConsoleRequest where
  width : Width
  data : Word
deriving DecidableEq, Repr

/-- The kinds of internal fault with the info each records (spec/60_exceptions.md R260). -/
inductive InternalFault where
  /-- Raised by the ALU on a reserved tag (spec/40_alu.md R135). -/
  | badAluTag (tag : BitVec 4)
  /-- Raised by the BRU on a reserved tag (spec/41_branch.md R151). -/
  | badBranchTag (tag : BitVec 4)
  /-- Raised by the MAU on a rejected selector (spec/42_memory_access.md R187, R191). -/
  | badWidthSelector (kind : AccessKind) (fsel : BitVec 3)
  /-- Raised by the CSR gate on a read outside the allow-list (spec/43_csr_gate.md R215). -/
  | csrReadDenied (addr : CsrAddr)
  /-- Raised by the CSR gate on a write outside the control/status group (R218, R219). -/
  | csrWriteDenied (addr : CsrAddr) (value : Word)
deriving DecidableEq, Repr

/-- The machine's state. -/
structure State where
  /-- `PC`, the front end's fetch address (R21). -/
  pc : Word
  /-- `IFID` (R22). -/
  ifid : Option Fetched
  /-- `fetch_stalled` (R24). -/
  fetchStalled : Bool
  /-- `Mem` (R25), canonical: `Memory.wf`. -/
  mem : List Host.Cell
  /-- `Console`, oldest byte first (R26). -/
  console : List Byte
  /-- The fault record (R28). -/
  fault : Option InternalFault
  /-- `IDEX` (R23): the instruction of this step, or empty. -/
  idex : Option Slot
  /-- Input `rs1Value` of this step (R31). -/
  rs1Value : Word
  /-- Input `rs2Value` of this step (R31). -/
  rs2Value : Word
  /-- Input `cycles` of this step (R34). -/
  cycles : BitVec 64
  /-- Input `instrs` of this step (R34). -/
  instrs : BitVec 64
  /-- The model's own: the inputs of the cycles to come. -/
  env : List CycleInput
  /-- The second operand value of this step (spec/44_stage_step.md R241, R243). -/
  v2 : Word
  /-- The value passed from unit to unit, at the end the step's `result` (R35, R241). -/
  result : Word
  /-- `redirect_valid` and `redirect_pc` of the latest step (R35). -/
  redirect : Option Word
  /-- The latest step's request to the memory subsystem (R32). -/
  memReq : Option MemRequest
  /-- The latest step's write to the console sink (R33). -/
  cout : Option ConsoleRequest
  /-- The parameters of spec/00_scope.md R6, which no step changes. -/
  cfg : Config
deriving DecidableEq, Repr

/-- Why the machine stops. -/
inductive Fault where
  /-- An internal fault (spec/60_exceptions.md R260), raised by any unit through `raise`, with the state it
  leaves: the fault record set, nothing of the step committed (spec/44_stage_step.md R244). Also the answer
  of a step from a state whose record is set (R266). Safe: the spec's own outcome. -/
  | internal (f : InternalFault) (after : State)
  /-- The memory subsystem does not accept the request (spec/20_memory.md R57): a fault of the
  collaborator, raised by loads and stores. Safe: never a completed access. -/
  | memoryNotAdmitted (addr : Word) (width : Width) (kind : AccessKind)
deriving DecidableEq, Repr

/-- Why a step has no meaning. -/
inductive Refusal where
  /-- An instruction without a meaning yet, refused in `exec`'s arm. Safe. -/
  | notModelled (mnemonic : String)
  /-- The control word is not well-formed (spec/30_encoding.md R90); raised by `stage`. Safe: the spec
  gives such a word no meaning. -/
  | notWellFormed (why : DecodeError)
deriving DecidableEq, Repr

/-- The state after reset under the parameters `c` (R38). The inputs and outputs of a step have no reset
value in the spec: DESIGN CHOICE (unsafe for claims about them at reset), zero or none. -/
def State.resetWith (c : Config) : State :=
  { pc := c.resetPc, ifid := none, fetchStalled := false, mem := c.memInit, console := [],
    fault := none, idex := none, rs1Value := 0#32, rs2Value := 0#32, cycles := 0#64, instrs := 0#64,
    env := [], v2 := 0#32, result := 0#32, redirect := none, memReq := none, cout := none, cfg := c }

/-- The machine right after reset. -/
def State.reset : State := State.resetWith Config.standard

end Sys2Proof.Machine
end

