-- ==== Sys2Proof/Machine/Ops.lean ====
section
/-! DEFINITION. The named operations over memory, console, CSR gate, front-end registers and the fault
record, and the frame of one step. -/

namespace Sys2Proof

/-! ## Backing memory (spec/20_memory.md) -/

/-- What an unlisted address reads as: no value (spec/10_state.md R38). -/
def Memory.unlisted : Option Byte := none

/-- The byte at an address, if it has a defined value. -/
def Memory.read (m : List Host.Cell) (a : Nat) : Option Byte :=
  match m with
  | [] => Memory.unlisted
  | (k, b) :: rest => if k = a then some b else Memory.read rest a

/-- `Mem[a] <- v`, at its place in the rising order. -/
def Memory.write (m : List Host.Cell) (a : Nat) (v : Byte) : List Host.Cell :=
  match m with
  | [] => [(a, v)]
  | (k, b) :: rest =>
    if a < k then (a, v) :: (k, b) :: rest
    else if a = k then (a, v) :: rest
    else (k, b) :: Memory.write rest a v

/-- Bytes at consecutive addresses from `a` on, wrapping at 2^32 (R54, R56). -/
def Memory.writeBytes (m : List Host.Cell) (a : Word) (bs : List Byte) : List Host.Cell :=
  match bs with
  | [] => m
  | b :: rest => Memory.writeBytes (Memory.write m a.toNat b) (a + 1#32) rest

/-- `n`, the number of bytes of an access (R52). -/
def Width.bytes : Width → Nat
  | .byte => 1
  | .half => 2
  | .word => 4

/-- The low `n` bytes of a value, lowest first (R51, R54, R59). -/
def littleEndian (n : Nat) (v : Word) : List Byte :=
  match n with
  | 0 => []
  | k + 1 => v.setWidth 8 :: littleEndian k (v >>> 8)

/-- The value of bytes, lowest first, zero above them (R51, R53). -/
def assemble (bs : List Byte) : Word :=
  match bs with
  | [] => 0#32
  | b :: rest => b.setWidth 32 ||| (assemble rest <<< 8)

/-- `sext_8` and `sext_16` of the low bits (spec/00_scope.md R8); the word as it stands. -/
def signExtendFrom (w : Width) (v : Word) : Word :=
  match w with
  | .byte => (v.setWidth 8).signExtend 32
  | .half => (v.setWidth 16).signExtend 32
  | .word => v

/-- `zext_8` and `zext_16` of the low bits (spec/00_scope.md R8); the word as it stands. -/
def zeroExtendFrom (w : Width) (v : Word) : Word :=
  match w with
  | .byte => (v.setWidth 8).setWidth 32
  | .half => (v.setWidth 16).setWidth 32
  | .word => v

/-- `MemAdmits(addr, n, kind)` (R57). -/
def Config.admits (c : Config) (a : Word) (w : Width) (k : AccessKind) : Bool :=
  !(c.memRefused.contains { addr := a, width := w, kind := k })

/-- The console window's test, on the first byte's address (R58). -/
def Config.inConsole (c : Config) (a : Word) : Bool :=
  c.coutAddr.toNat ≤ a.toNat && a.toNat < c.coutAddr.toNat + c.coutSize

/-- The CSR an address names, if it is on the allow-list (spec/43_csr_gate.md R211). -/
def CsrTable.lookup (t : CsrTable) (a : CsrAddr) : Option CsrName :=
  CsrName.all.find? (fun n => t.addr n == a)

namespace Machine

/-- The byte at an address as a load sees it: a byte without a defined value is the free value
`Config.undefinedByte`, so the load goes on. -/
def readByte (s : State) (a : Word) : Byte :=
  (Memory.read s.mem a.toNat).getD (Config.undefinedByte a)

/-- The bytes at `n` consecutive addresses, wrapping at 2^32 (R53, R56). -/
def readBytes (s : State) (a : Word) (n : Nat) : List Byte :=
  match n with
  | 0 => []
  | k + 1 => readByte s a :: readBytes s (a + 1#32) k

/-- `MemRead(addr, n)` (R53), zero-extended to a word. -/
def memRead (s : State) (a : Word) (w : Width) : Word :=
  assemble (readBytes s a w.bytes)

/-- `MemWrite(addr, n, v)` (R54) of the low bytes of `v`. DESIGN CHOICE (log 33): the bits of the port's data
above the low `8n`, which spec/10_state.md R32 does not call significant, are zero. -/
def memWrite (s : State) (a : Word) (w : Width) (v : Word) : State :=
  { s with mem := Memory.writeBytes s.mem a (littleEndian w.bytes v),
           memReq := some (.write a w (zeroExtendFrom w v)) }

/-- The port activity of a read (spec/10_state.md R32), the bits of its data above the access zero as
`memRead` gives them (log 33). -/
def noteRead (s : State) (a : Word) (w : Width) (v : Word) : State :=
  { s with memReq := some (.read a w v) }

/-- `ConsoleWrite(n, v)` (R59): the bytes appended, the address not passed on. DESIGN CHOICE (log 33): the
bits of the port's data above the low `8n`, which spec/10_state.md R33 does not call significant, are zero. -/
def consoleWrite (s : State) (w : Width) (v : Word) : State :=
  { s with console := s.console ++ littleEndian w.bytes v,
           cout := some { width := w, data := zeroExtendFrom w v } }

/-- The value handed to the next unit, at the end the step's result. -/
def setResult (s : State) (v : Word) : State := { s with result := v }

/-- The address of the instruction in the core, the step input `pc` (spec/10_state.md R30). No step runs
an instruction with an empty latch; there it reads 0. -/
def instrPc (s : State) : Word :=
  match s.idex with
  | some slot => slot.pc
  | none => 0#32

/-! ## Taking a fault (spec/60_exceptions.md R260, R266) -/

/-- The fault record set, nothing else changed (R28, R266). There is no saved pc, no mode and no handler. -/
def recordFault (s : State) (f : InternalFault) : State := { s with fault := some f }

/-- `raise InternalFault(kind, info)`: the one way a unit stops. There is no return from a fault (R269). -/
def raise (f : InternalFault) (s : State) : Host.Outcome State Fault Refusal :=
  .fault (.internal f (recordFault s f))

/-! ## The misprediction correction (spec/41_branch.md R163) -/

/-- `PC <- target; IFID <- empty; fetch_stalled <- false`, as one update, with its port activity. -/
def correct (s : State) (target : Word) : State :=
  { s with pc := target, ifid := none, fetchStalled := false, redirect := some target }

/-! ## The CSR gate (spec/43_csr_gate.md) -/

/-- The value a CSR reads as: zero for the control/status group (R213), the half of a counter (R214). -/
def csrValue (s : State) : CsrName → Word
  | .mcycle => s.cycles.extractLsb' 0 32
  | .mcycleh => s.cycles.extractLsb' 32 32
  | .minstret => s.instrs.extractLsb' 0 32
  | .minstreth => s.instrs.extractLsb' 32 32
  | .mhartid | .satp | .pmpcfg0 | .pmpaddr0 | .mstatus | .misa | .medeleg | .mideleg | .mie | .mtvec
  | .mepc | .mnstatus => 0#32

/-- `CsrRead(a)` (R212). -/
def csrRead (s : State) (a : CsrAddr) : Except InternalFault Word :=
  match s.cfg.csrAddr.lookup a with
  | some n => .ok (csrValue s n)
  | none => .error (.csrReadDenied a)

/-- `CsrWrite(a, v)` (R216): accepted and discarded for the control/status group, else denied. -/
def csrWrite (s : State) (a : CsrAddr) (v : Word) : Except InternalFault State :=
  match s.cfg.csrAddr.lookup a with
  | some n => if n.isControl then .ok s else .error (.csrWriteDenied a v)
  | none => .error (.csrWriteDenied a v)

/-! ## The frame of one step (spec/44_stage_step.md) -/

/-- The second operand value of a word (R241, R243): the addressed CSR for a CSR-class word, else
`rs2Value`. Where the read is denied the step ends in that fault at the MAU, after the checks that R245
puts before it, and the 0 put here is delivered nowhere. -/
def secondValue (s : State) (cw : Cw) : Word :=
  if Cw.isCsr cw then
    match csrRead s (Cw.csrAddr cw) with
    | .ok v => v
    | .error _ => 0#32
  else s.rs2Value

/-- The start of a step: the second operand value chosen, the ports of the step before cleared. -/
def beginStep (s : State) (cw : Cw) : State :=
  { s with v2 := secondValue s cw, redirect := none, memReq := none, cout := none }

/-- One unit after another: a fault or a refusal ends the step (R244). -/
def andThen (o : Host.Outcome State Fault Refusal)
    (k : State → Host.Outcome State Fault Refusal) : Host.Outcome State Fault Refusal :=
  match o with
  | .next s => k s
  | .fault f => .fault f
  | .refused r => .refused r

/-- A faulting step commits nothing (R244): the state it leaves is the one before the step with the fault
record set. -/
def commit (s : State) (o : Host.Outcome State Fault Refusal) : Host.Outcome State Fault Refusal :=
  match o with
  | .next t => .next t
  | .fault (.internal f _) => .fault (.internal f (recordFault s f))
  | .fault (.memoryNotAdmitted a w k) => .fault (.memoryNotAdmitted a w k)
  | .refused r => .refused r

/-- The front end's update of its own registers, if it makes one. -/
def applyFront (s : State) (f : Option FrontEnd) : State :=
  match f with
  | some u => { s with pc := u.pc, ifid := u.ifid, fetchStalled := u.fetchStalled }
  | none => s

/-- The end of a cycle: the pipeline retires the instruction and presents the next cycle's inputs; where
the schedule is used up it presents a bubble. DESIGN CHOICE (log 23, log 4; unsafe for claims that compare
counters over such cycles): with the bubble the operands and the counters `cycles` and `instrs` keep their last
values, although the spec leaves open when a counter advances (spec/43_csr_gate.md R221,
spec/91_not_in_source.md N21). -/
def nextCycle (s : State) : State :=
  match s.env with
  | [] => { s with idex := none }
  | c :: rest =>
    applyFront { s with env := rest, idex := c.idex, rs1Value := c.rs1Value, rs2Value := c.rs2Value,
                        cycles := c.cycles, instrs := c.instrs } c.front

/-- A step's outcome with its next state moved on to the next cycle. -/
def advance (o : Host.Outcome State Fault Refusal) : Host.Outcome State Fault Refusal :=
  match o with
  | .next t => .next (nextCycle t)
  | .fault f => .fault f
  | .refused r => .refused r

end Machine

end Sys2Proof
end

