-- ==== Sys2Proof/Machine/Operands.lean ====
section
/-! DEFINITION. The operand forms (spec/40_alu.md R120 to R122, R129) and the operands of branches and
memory accesses. -/

namespace Sys2Proof.Machine

/-- The first operand before inversion (R120): `pc` before the literal index before `rs1Value`. -/
def selectFirst (o : AluOperands) (s : State) : Word :=
  if o.s1Pc then instrPc s
  else if o.s1Idx then o.rs1Idx.setWidth 32
  else s.rs1Value

/-- The first operand (R121): inverted after the selection where flagged. -/
def firstOperand (o : AluOperands) (s : State) : Word :=
  if o.s1Inv then ~~~ selectFirst o s else selectFirst o s

/-- The second operand (R122): the immediate where flagged, else the second operand value. -/
def secondOperand (o : AluOperands) (s : State) : Word :=
  if o.s2Imm then o.imm else s.v2

/-- The shift amount (R129): `s2[4:0]`. -/
def shiftAmount (s2 : Word) : Nat := (s2.extractLsb' 0 5).toNat

/-- The link address `pc + 4` modulo 2^32 (spec/41_branch.md R162), also the sequential address. -/
def linkAddress (s : State) : Word := instrPc s + 4#32

/-- The address of a load or store (spec/42_memory_access.md, head): the value from the BRU. -/
def accessAddress (s : State) : Word := s.result

/-- The value of a store (spec/42_memory_access.md, head): the second operand value. -/
def storeValue (s : State) : Word := s.v2

end Sys2Proof.Machine
end

