-- ==== Sys2Proof/Machine/Flags.lean ====
section
/-! DEFINITION. Comparisons. The core has no status flags or condition codes (spec/10_state.md R29): a
comparison delivers 0 or 1 as a word (spec/40_alu.md R133, R134) or the BRU's `taken` (spec/41_branch.md
R154 to R159), which is not stored. -/

namespace Sys2Proof.Machine

/-- A comparison's outcome as a 32-bit value. -/
def boolWord (b : Bool) : Word := if b then 1#32 else 0#32

/-- Less-than of the signed readings. -/
def signedLess (a b : Word) : Bool := a.slt b

/-- Less-than of the unsigned readings. -/
def unsignedLess (a b : Word) : Bool := a.ult b

/-- The predicate of `BEQ`. -/
def takenEq (s : State) : Bool := s.rs1Value == s.rs2Value

/-- The predicate of `BNE`. -/
def takenNe (s : State) : Bool := s.rs1Value != s.rs2Value

/-- The predicate of `BLT`. -/
def takenLt (s : State) : Bool := signedLess s.rs1Value s.rs2Value

/-- The predicate of `BGE`. -/
def takenGe (s : State) : Bool := !(signedLess s.rs1Value s.rs2Value)

/-- The predicate of `BLTU`. -/
def takenLtu (s : State) : Bool := unsignedLess s.rs1Value s.rs2Value

/-- The predicate of `BGEU`. -/
def takenGeu (s : State) : Bool := !(unsignedLess s.rs1Value s.rs2Value)

end Sys2Proof.Machine
end

