-- ==== Sys2Proof/Machine/Alu.lean ====
section
/-! DEFINITION. The arithmetic/logic unit (spec/40_alu.md): one meaning per ALU row. Each hands its value
on and changes nothing else (R136). -/

namespace Sys2Proof.Machine

/-- A defined ALU operation: `f` of the two operands becomes the result. -/
def aluCompute (f : Word → Word → Word) (o : AluOperands) (s : State) :
    Host.Outcome State Fault Refusal :=
  .next (setResult s (f (firstOperand o s) (secondOperand o s)))

/-- `NONE` (R123): no operand is read; the value is the parameter `noneResult`, 0 by the spec. -/
def execAluNone (_o : AluOperands) (s : State) : Host.Outcome State Fault Refusal :=
  .next (setResult s s.cfg.noneResult)

/-- `ADD` (R124). -/
def execAluAdd (o : AluOperands) (s : State) : Host.Outcome State Fault Refusal :=
  aluCompute (fun a b => a + b) o s

/-- `SUB` (R125). -/
def execAluSub (o : AluOperands) (s : State) : Host.Outcome State Fault Refusal :=
  aluCompute (fun a b => a - b) o s

/-- `AND` (R126). -/
def execAluAnd (o : AluOperands) (s : State) : Host.Outcome State Fault Refusal :=
  aluCompute (fun a b => a &&& b) o s

/-- `OR` (R127). -/
def execAluOr (o : AluOperands) (s : State) : Host.Outcome State Fault Refusal :=
  aluCompute (fun a b => a ||| b) o s

/-- `XOR` (R128). -/
def execAluXor (o : AluOperands) (s : State) : Host.Outcome State Fault Refusal :=
  aluCompute (fun a b => a ^^^ b) o s

/-- `SLL` (R130). -/
def execAluSll (o : AluOperands) (s : State) : Host.Outcome State Fault Refusal :=
  aluCompute (fun a b => a <<< shiftAmount b) o s

/-- `SRL` (R131). -/
def execAluSrl (o : AluOperands) (s : State) : Host.Outcome State Fault Refusal :=
  aluCompute (fun a b => a >>> shiftAmount b) o s

/-- `SRA` (R132). -/
def execAluSra (o : AluOperands) (s : State) : Host.Outcome State Fault Refusal :=
  aluCompute (fun a b => a.sshiftRight (shiftAmount b)) o s

/-- `LT` (R133). -/
def execAluLt (o : AluOperands) (s : State) : Host.Outcome State Fault Refusal :=
  aluCompute (fun a b => boolWord (signedLess a b)) o s

/-- `LTU` (R134). -/
def execAluLtu (o : AluOperands) (s : State) : Host.Outcome State Fault Refusal :=
  aluCompute (fun a b => boolWord (unsignedLess a b)) o s

/-- Reserved tag 11 (R135). -/
def execAluReserved11 (_o : AluOperands) (s : State) : Host.Outcome State Fault Refusal :=
  raise (.badAluTag 11#4) s

/-- Reserved tag 12 (R135). -/
def execAluReserved12 (_o : AluOperands) (s : State) : Host.Outcome State Fault Refusal :=
  raise (.badAluTag 12#4) s

/-- Reserved tag 13 (R135). -/
def execAluReserved13 (_o : AluOperands) (s : State) : Host.Outcome State Fault Refusal :=
  raise (.badAluTag 13#4) s

/-- Reserved tag 14 (R135). -/
def execAluReserved14 (_o : AluOperands) (s : State) : Host.Outcome State Fault Refusal :=
  raise (.badAluTag 14#4) s

/-- Reserved tag 15 (R135). -/
def execAluReserved15 (_o : AluOperands) (s : State) : Host.Outcome State Fault Refusal :=
  raise (.badAluTag 15#4) s

end Sys2Proof.Machine
end

