-- ==== Sys2Proof/Machine/Branch.lean ====
section
/-! DEFINITION. The branch-resolution unit (spec/41_branch.md): one meaning per BRU row. The target of every
kind is the value from the ALU, used as it stands (R160, R161). -/

namespace Sys2Proof.Machine

/-- The correction of R163 where the branch is taken, not exempt, and its target is not the sequential
address; else nothing (R165, R166). -/
def correctIf (taken exempt : Bool) (s : State) : State :=
  if taken && !exempt && s.result != linkAddress s then correct s s.result else s

/-- `NONE` (R150): the value from the ALU passes through. -/
def execBrNone (s : State) : Host.Outcome State Fault Refusal := .next s

/-- A call/jump kind (R162): always taken, the result is the link address; corrected unless exempt. -/
def callJump (exempt : Bool) (s : State) : Host.Outcome State Fault Refusal :=
  .next (setResult (correctIf true exempt s) (linkAddress s))

/-- A conditional kind (R162): corrected where taken, the result is the target. -/
def conditional (taken : Bool) (s : State) : Host.Outcome State Fault Refusal :=
  .next (correctIf taken false s)

/-- `JAL` (R152, R164): exempt with `EXEMPT_JUMP = JAL`. -/
def execBrJal (s : State) : Host.Outcome State Fault Refusal :=
  callJump (s.cfg.exemptJump == .jal) s

/-- `JALR` (R153, R164): checked with `EXEMPT_JUMP = JAL`. -/
def execBrJalr (s : State) : Host.Outcome State Fault Refusal :=
  callJump (s.cfg.exemptJump == .jalr) s

/-- `BEQ` (R154). -/
def execBrBeq (s : State) : Host.Outcome State Fault Refusal := conditional (takenEq s) s

/-- `BNE` (R155). -/
def execBrBne (s : State) : Host.Outcome State Fault Refusal := conditional (takenNe s) s

/-- `BLT` (R156). -/
def execBrBlt (s : State) : Host.Outcome State Fault Refusal := conditional (takenLt s) s

/-- `BGE` (R157). -/
def execBrBge (s : State) : Host.Outcome State Fault Refusal := conditional (takenGe s) s

/-- `BLTU` (R158). -/
def execBrBltu (s : State) : Host.Outcome State Fault Refusal := conditional (takenLtu s) s

/-- `BGEU` (R159). -/
def execBrBgeu (s : State) : Host.Outcome State Fault Refusal := conditional (takenGeu s) s

/-- Reserved tag 9 (R151). -/
def execBrReserved9 (s : State) : Host.Outcome State Fault Refusal := raise (.badBranchTag 9#4) s

/-- Reserved tag 10 (R151). -/
def execBrReserved10 (s : State) : Host.Outcome State Fault Refusal := raise (.badBranchTag 10#4) s

/-- Reserved tag 11 (R151). -/
def execBrReserved11 (s : State) : Host.Outcome State Fault Refusal := raise (.badBranchTag 11#4) s

/-- Reserved tag 12 (R151). -/
def execBrReserved12 (s : State) : Host.Outcome State Fault Refusal := raise (.badBranchTag 12#4) s

/-- Reserved tag 13 (R151). -/
def execBrReserved13 (s : State) : Host.Outcome State Fault Refusal := raise (.badBranchTag 13#4) s

/-- Reserved tag 14 (R151). -/
def execBrReserved14 (s : State) : Host.Outcome State Fault Refusal := raise (.badBranchTag 14#4) s

/-- Reserved tag 15 (R151). -/
def execBrReserved15 (s : State) : Host.Outcome State Fault Refusal := raise (.badBranchTag 15#4) s

end Sys2Proof.Machine
end

