-- ==== Sys2Proof/Machine/Csr.lean ====
section
/-! DEFINITION. The CSR path (spec/42_memory_access.md R193) over the CSR gate of Machine/Ops.lean. -/

namespace Sys2Proof.Machine

/-- Read, then write only a changed value (R193): the new value comes from the ALU, the old one is the
second operand value, and the old one is the result. A read that the gate denies is reported before
any write (spec/44_stage_step.md R245). -/
def csrAccess (a : CsrAddr) (s : State) : Host.Outcome State Fault Refusal :=
  match csrRead s a with
  | .error f => raise f s
  | .ok _ =>
    if s.result ≠ s.v2 then
      match csrWrite s a s.result with
      | .ok t => .next (setResult t s.v2)
      | .error f => raise f s
    else .next (setResult s s.v2)

/-- `CSR` (R193); the selector is ignored. -/
def execMemCsr (_fsel : BitVec 3) (addr : CsrAddr) (s : State) : Host.Outcome State Fault Refusal :=
  csrAccess addr s

end Sys2Proof.Machine
end

