-- ==== Sys2Proof/Machine/MemoryAccess.lean ====
section
/-! DEFINITION. The memory-access unit's loads, stores and pass-through (spec/42_memory_access.md): one
meaning per row. -/

namespace Sys2Proof.Machine

/-- A load (R182 to R186): the bytes at the address, extended; a request that the memory subsystem does
not accept is its own fault (spec/20_memory.md R57). The console window is not special (R60). -/
def loadAccess (w : Width) (ext : Width → Word → Word) (s : State) :
    Host.Outcome State Fault Refusal :=
  if s.cfg.admits (accessAddress s) w .load then
    .next (setResult (noteRead s (accessAddress s) w (memRead s (accessAddress s) w))
      (ext w (memRead s (accessAddress s) w)))
  else .fault (.memoryNotAdmitted (accessAddress s) w .load)

/-- A store (R188 to R190): to the console where the address lies in the window, else to memory. The
result stays the address (R192). -/
def storeAccess (w : Width) (s : State) : Host.Outcome State Fault Refusal :=
  if s.cfg.inConsole (accessAddress s) then .next (consoleWrite s w (storeValue s))
  else if s.cfg.admits (accessAddress s) w .store then
    .next (memWrite s (accessAddress s) w (storeValue s))
  else .fault (.memoryNotAdmitted (accessAddress s) w .store)

/-- `LB` (R182). -/
def execMemLb (s : State) : Host.Outcome State Fault Refusal := loadAccess .byte signExtendFrom s

/-- `LH` (R183). -/
def execMemLh (s : State) : Host.Outcome State Fault Refusal := loadAccess .half signExtendFrom s

/-- `LW` (R184). -/
def execMemLw (s : State) : Host.Outcome State Fault Refusal := loadAccess .word zeroExtendFrom s

/-- `LBU` (R185). -/
def execMemLbu (s : State) : Host.Outcome State Fault Refusal := loadAccess .byte zeroExtendFrom s

/-- `LHU` (R186). -/
def execMemLhu (s : State) : Host.Outcome State Fault Refusal := loadAccess .half zeroExtendFrom s

/-- Rejected load selector 3 (R187). -/
def execMemLoadReserved3 (s : State) : Host.Outcome State Fault Refusal :=
  raise (.badWidthSelector .load 3#3) s

/-- Rejected load selector 6 (R187). -/
def execMemLoadReserved6 (s : State) : Host.Outcome State Fault Refusal :=
  raise (.badWidthSelector .load 6#3) s

/-- Rejected load selector 7 (R187). -/
def execMemLoadReserved7 (s : State) : Host.Outcome State Fault Refusal :=
  raise (.badWidthSelector .load 7#3) s

/-- `SB` (R188). -/
def execMemSb (s : State) : Host.Outcome State Fault Refusal := storeAccess .byte s

/-- `SH` (R189). -/
def execMemSh (s : State) : Host.Outcome State Fault Refusal := storeAccess .half s

/-- `SW` (R190). -/
def execMemSw (s : State) : Host.Outcome State Fault Refusal := storeAccess .word s

/-- Rejected store selector 3 (R191). -/
def execMemStoreReserved3 (s : State) : Host.Outcome State Fault Refusal :=
  raise (.badWidthSelector .store 3#3) s

/-- Rejected store selector 4 (R191). -/
def execMemStoreReserved4 (s : State) : Host.Outcome State Fault Refusal :=
  raise (.badWidthSelector .store 4#3) s

/-- Rejected store selector 5 (R191). -/
def execMemStoreReserved5 (s : State) : Host.Outcome State Fault Refusal :=
  raise (.badWidthSelector .store 5#3) s

/-- Rejected store selector 6 (R191). -/
def execMemStoreReserved6 (s : State) : Host.Outcome State Fault Refusal :=
  raise (.badWidthSelector .store 6#3) s

/-- Rejected store selector 7 (R191). -/
def execMemStoreReserved7 (s : State) : Host.Outcome State Fault Refusal :=
  raise (.badWidthSelector .store 7#3) s

/-- `NONE` class (R194): the value from the BRU passes through. -/
def execMemNone (_fsel : BitVec 3) (s : State) : Host.Outcome State Fault Refusal := .next s

end Sys2Proof.Machine
end

