-- ==== Sys2Proof/Machine/Dispatch.lean ====
section
/-! DEFINITION. One arm per row of the opcode table, each one call of its meaning. -/

namespace Sys2Proof.Machine

def exec (i : Instr) (s : State) : Host.Outcome State Fault Refusal :=
  match i with
  | .aluNone o => Sys2Proof.Machine.execAluNone o s
  | .aluAdd o => Sys2Proof.Machine.execAluAdd o s
  | .aluSub o => Sys2Proof.Machine.execAluSub o s
  | .aluAnd o => Sys2Proof.Machine.execAluAnd o s
  | .aluOr o => Sys2Proof.Machine.execAluOr o s
  | .aluXor o => Sys2Proof.Machine.execAluXor o s
  | .aluSll o => Sys2Proof.Machine.execAluSll o s
  | .aluSrl o => Sys2Proof.Machine.execAluSrl o s
  | .aluSra o => Sys2Proof.Machine.execAluSra o s
  | .aluLt o => Sys2Proof.Machine.execAluLt o s
  | .aluLtu o => Sys2Proof.Machine.execAluLtu o s
  | .aluReserved11 o => Sys2Proof.Machine.execAluReserved11 o s
  | .aluReserved12 o => Sys2Proof.Machine.execAluReserved12 o s
  | .aluReserved13 o => Sys2Proof.Machine.execAluReserved13 o s
  | .aluReserved14 o => Sys2Proof.Machine.execAluReserved14 o s
  | .aluReserved15 o => Sys2Proof.Machine.execAluReserved15 o s
  | .brNone => Sys2Proof.Machine.execBrNone s
  | .brJal => Sys2Proof.Machine.execBrJal s
  | .brJalr => Sys2Proof.Machine.execBrJalr s
  | .brBeq => Sys2Proof.Machine.execBrBeq s
  | .brBne => Sys2Proof.Machine.execBrBne s
  | .brBlt => Sys2Proof.Machine.execBrBlt s
  | .brBge => Sys2Proof.Machine.execBrBge s
  | .brBltu => Sys2Proof.Machine.execBrBltu s
  | .brBgeu => Sys2Proof.Machine.execBrBgeu s
  | .brReserved9 => Sys2Proof.Machine.execBrReserved9 s
  | .brReserved10 => Sys2Proof.Machine.execBrReserved10 s
  | .brReserved11 => Sys2Proof.Machine.execBrReserved11 s
  | .brReserved12 => Sys2Proof.Machine.execBrReserved12 s
  | .brReserved13 => Sys2Proof.Machine.execBrReserved13 s
  | .brReserved14 => Sys2Proof.Machine.execBrReserved14 s
  | .brReserved15 => Sys2Proof.Machine.execBrReserved15 s
  | .memLb => Sys2Proof.Machine.execMemLb s
  | .memLh => Sys2Proof.Machine.execMemLh s
  | .memLw => Sys2Proof.Machine.execMemLw s
  | .memLbu => Sys2Proof.Machine.execMemLbu s
  | .memLhu => Sys2Proof.Machine.execMemLhu s
  | .memLoadReserved3 => Sys2Proof.Machine.execMemLoadReserved3 s
  | .memLoadReserved6 => Sys2Proof.Machine.execMemLoadReserved6 s
  | .memLoadReserved7 => Sys2Proof.Machine.execMemLoadReserved7 s
  | .memSb => Sys2Proof.Machine.execMemSb s
  | .memSh => Sys2Proof.Machine.execMemSh s
  | .memSw => Sys2Proof.Machine.execMemSw s
  | .memStoreReserved3 => Sys2Proof.Machine.execMemStoreReserved3 s
  | .memStoreReserved4 => Sys2Proof.Machine.execMemStoreReserved4 s
  | .memStoreReserved5 => Sys2Proof.Machine.execMemStoreReserved5 s
  | .memStoreReserved6 => Sys2Proof.Machine.execMemStoreReserved6 s
  | .memStoreReserved7 => Sys2Proof.Machine.execMemStoreReserved7 s
  | .memCsr fsel addr => Sys2Proof.Machine.execMemCsr fsel addr s
  | .memNone fsel => Sys2Proof.Machine.execMemNone fsel s

end Sys2Proof.Machine
end

