-- ==== Sys2Proof/Machine/Step.lean ====
section
/-! DEFINITION. One step of the stage (spec/44_stage_step.md R240, R241). -/

namespace Sys2Proof.Machine

/-- The three rows of a decoded word, in the order of R241. -/
def runUnits (d : Decoded) (s : State) : Host.Outcome State Fault Refusal :=
  andThen (exec d.alu s) fun s1 => andThen (exec d.bru s1) fun s2 => exec d.mau s2

/-- One invocation of the core (R240). Once the fault record is set no step is taken
(spec/60_exceptions.md R266); with an empty latch no state changes; an ill-formed word is refused. -/
def stage (s : State) : Host.Outcome State Fault Refusal :=
  match s.fault with
  | some f => .fault (.internal f s)
  | none =>
    match s.idex with
    | none => .next s
    | some slot =>
      match decode slot.cw with
      | .error e => .refused (.notWellFormed e)
      | .ok d => commit s (runUnits d (beginStep s slot.cw))

/-- One cycle: the stage, then the pipeline's move to the next cycle's inputs. -/
def step (s : State) : Host.Outcome State Fault Refusal := advance (stage s)

/-- `s` with the word in `IDEX`, where the stage takes its instruction from; its address is `PC`. -/
def State.withFetchWord (s : State) (nbits w : Nat) : State :=
  { s with idex := some { cw := BitVec.ofNat 65 (w % 2 ^ nbits), pc := s.pc, uid := 0 } }

end Sys2Proof.Machine
end

