-- ==== Sys2Proof/Safety.lean ====
section
/-! DEFINITION. What counts as a sound state and a safe word, and the words claims are stated in. -/

namespace Sys2Proof

/-- The row is a reserved tag or selector, whose meaning is an internal fault (spec/30_encoding.md R91). -/
def Instr.isReserved : Instr → Bool
  | .aluReserved11 _ | .aluReserved12 _ | .aluReserved13 _ | .aluReserved14 _ | .aluReserved15 _
  | .brReserved9 | .brReserved10 | .brReserved11 | .brReserved12 | .brReserved13 | .brReserved14
  | .brReserved15
  | .memLoadReserved3 | .memLoadReserved6 | .memLoadReserved7
  | .memStoreReserved3 | .memStoreReserved4 | .memStoreReserved5 | .memStoreReserved6
  | .memStoreReserved7 => true
  | .aluNone _ | .aluAdd _ | .aluSub _ | .aluAnd _ | .aluOr _ | .aluXor _ | .aluSll _ | .aluSrl _
  | .aluSra _ | .aluLt _ | .aluLtu _
  | .brNone | .brJal | .brJalr | .brBeq | .brBne | .brBlt | .brBge | .brBltu | .brBgeu
  | .memLb | .memLh | .memLw | .memLbu | .memLhu | .memSb | .memSh | .memSw
  | .memCsr _ _ | .memNone _ => false

/-- The width of a store row. -/
def Instr.storeWidth : Instr → Option Width
  | .memSb => some .byte
  | .memSh => some .half
  | .memSw => some .word
  | .aluNone _ | .aluAdd _ | .aluSub _ | .aluAnd _ | .aluOr _ | .aluXor _ | .aluSll _ | .aluSrl _
  | .aluSra _ | .aluLt _ | .aluLtu _ | .aluReserved11 _ | .aluReserved12 _ | .aluReserved13 _
  | .aluReserved14 _ | .aluReserved15 _
  | .brNone | .brJal | .brJalr | .brBeq | .brBne | .brBlt | .brBge | .brBltu | .brBgeu
  | .brReserved9 | .brReserved10 | .brReserved11 | .brReserved12 | .brReserved13 | .brReserved14
  | .brReserved15
  | .memLb | .memLh | .memLw | .memLbu | .memLhu | .memLoadReserved3 | .memLoadReserved6
  | .memLoadReserved7 | .memStoreReserved3 | .memStoreReserved4 | .memStoreReserved5
  | .memStoreReserved6 | .memStoreReserved7 | .memCsr _ _ | .memNone _ => none

/-- Among the words the decoder accepts, `alu_op = t` selects exactly the ALU row `mk`. -/
def SelectedByAluTag (t : BitVec 4) (mk : AluOperands → Instr) : Prop :=
  ∀ w d, decode w = .ok d → (Cw.aluOp w = t ↔ d.alu = mk (Cw.operands w))

/-- Among the words the decoder accepts, `br_op = t` selects exactly the BRU row `i`. -/
def SelectedByBrTag (t : BitVec 4) (i : Instr) : Prop :=
  ∀ w d, decode w = .ok d → (Cw.brOp w = t ↔ d.bru = i)

/-- Among the words the decoder accepts, bits 13:8 equal to `b` select exactly the MAU row `i`. -/
def SelectedByMemBits (b : BitVec 6) (i : Instr) : Prop :=
  ∀ w d, decode w = .ok d → (w.extractLsb' 8 6 = b ↔ d.mau = i)

namespace Machine

/-- A sound state: memory canonical, parameters as R6 and R211 ask, no fault recorded. -/
def Inv (s : State) : Prop :=
  Memory.wf s.mem = true ∧ s.cfg.wf = true ∧ s.fault = none

/-- A state about to run the word that decodes to `d` (spec/44_stage_step.md R240). -/
def Holds (s : State) (slot : Slot) (d : Decoded) : Prop :=
  s.fault = none ∧ s.idex = some slot ∧ decode slot.cw = .ok d

/-- The state after a correction to `target` (spec/41_branch.md R163). -/
def Redirected (s : State) (target : Word) : State :=
  { s with pc := target, ifid := none, fetchStalled := false, redirect := some target }

/-- The two states agree on all that a step takes from outside and on the parameters: the latch `IDEX`,
the operands, the counters, the schedule, the second operand value, the parameters and the fault record. -/
def SameInputs (s t : State) : Prop :=
  t.idex = s.idex ∧ t.rs1Value = s.rs1Value ∧ t.rs2Value = s.rs2Value ∧ t.cycles = s.cycles
    ∧ t.instrs = s.instrs ∧ t.env = s.env ∧ t.v2 = s.v2 ∧ t.cfg = s.cfg ∧ t.fault = s.fault

/-- The two states agree on the registers of the front end: `PC`, `IFID`, `fetch_stalled`. -/
def SameFrontEnd (s t : State) : Prop :=
  t.pc = s.pc ∧ t.ifid = s.ifid ∧ t.fetchStalled = s.fetchStalled

end Machine

end Sys2Proof
end

