-- ==== Sys2Proof/Certificates/Slice0/Obligations.lean ====
section
/-! DEFINITION. The statements for the provers. -/

open Sys2Proof Sys2Proof.Machine

/-- O1. The words of 95_test_vectors.md section 2.7 for NOP, ADD, BGEU, LHU, SW and the CSR clear form decode to exactly the rows and fields printed beside them. The layout is the spec's own decision D1.
Rules: 30_encoding.md R80, 30_encoding.md R84, 30_encoding.md R85, 30_encoding.md R86, 95_test_vectors.md section 2.7. -/
def Obligations.SpecWordsDecode : Prop :=
  decode 0x0#65 = .ok ⟨.aluNone .zero, .brNone, .memNone 0#3, 0#5, 0#5⟩ ∧
  decode 0x00000000031040001#65
    = .ok ⟨.aluAdd ⟨false, false, false, false, 1#5, 0#32⟩, .brNone, .memNone 0#3, 2#5, 3#5⟩ ∧
  decode 0x1FFFFE00005AA4081#65
    = .ok ⟨.aluAdd ⟨true, false, false, true, 10#5, 0xFFFFF000#32⟩, .brBgeu, .memNone 0#3, 11#5, 0#5⟩ ∧
  decode 0x00000000C800A0D01#65
    = .ok ⟨.aluAdd ⟨false, false, false, true, 2#5, 6#32⟩, .brNone, .memLhu, 0#5, 8#5⟩ ∧
  decode 0x1FFFFFFF0048A1201#65
    = .ok ⟨.aluAdd ⟨false, false, false, true, 2#5, 0xFFFFFFF8#32⟩, .brNone, .memSw, 9#5, 0#5⟩ ∧
  decode 0x0000006006021A003#65
    = .ok ⟨.aluAnd ⟨false, true, true, false, 8#5, 0x300#32⟩, .brNone, .memCsr 0#3 0x300#12, 0#5, 6#5⟩

/-- O2. For every well-formed decoded word (any ALU row with any operand fields, any BRU row, any MAU row, any index fields), decode of its encoding is that decoded word. No bit of the encoding is dropped. The layout is the spec's own decision D1.
Rules: 30_encoding.md R80, 30_encoding.md R84, 30_encoding.md R85, 30_encoding.md R86, 30_encoding.md R87, 30_encoding.md R90. -/
def Obligations.DecodeOfEncode : Prop :=
  ∀ d : Decoded, d.wellFormed = true → decode (encode d) = .ok d

/-- O3. For every 65-bit word the decoder accepts, the decoded word is well-formed and its encoding is the word itself: each accepted word has one meaning and no two words share one. The layout is the spec's own decision D1.
Rules: 30_encoding.md R80, 30_encoding.md R88, 30_encoding.md R90. -/
def Obligations.EncodeOfDecode : Prop :=
  ∀ (w : Cw) (d : Decoded), decode w = .ok d → d.wellFormed = true ∧ encode d = w

/-- O4. For every 65-bit word w: the decoder answers a decoded word if and only if no two of the four conditions br_op nonzero, is_load, is_store, is_csr hold together. The rule is the spec's decision D24.
Rules: 30_encoding.md R90, 92_eei_decisions.md D24. -/
def Obligations.DecoderAcceptsExactlyWellFormedWords : Prop :=
  ∀ w : Cw,
    (∃ d, decode w = .ok d) ↔
      ¬ ((Cw.isLoad w = true ∧ Cw.isStore w = true) ∨ (Cw.isLoad w = true ∧ Cw.isCsr w = true) ∨
        (Cw.isStore w = true ∧ Cw.isCsr w = true) ∨
        (w.extractLsb' 4 4 ≠ 0#4 ∧
          (Cw.isLoad w = true ∨ Cw.isStore w = true ∨ Cw.isCsr w = true)))

/-- O5. For every accepted word: masked with the "mask" of its ALU, BRU and MAU row it gives that row's "match" in spec/opcode_table.json, and any row of a group that it matches has the match and mask of the row of that group it decodes to.
Rules: 30_encoding.md R88, opcode_table.json. -/
def Obligations.DecodedRowsMatchTheTable : Prop :=
  ∀ (w : Cw) (d : Decoded), decode w = .ok d →
    (w &&& d.alu.rowMask = d.alu.rowMatch ∧ w &&& d.bru.rowMask = d.bru.rowMatch ∧
      w &&& d.mau.rowMask = d.mau.rowMatch) ∧
    ∀ i : Instr, w &&& i.rowMask = i.rowMatch →
      (i.group = .alu → i.rowMatch = d.alu.rowMatch ∧ i.rowMask = d.alu.rowMask) ∧
      (i.group = .bru → i.rowMatch = d.bru.rowMatch ∧ i.rowMask = d.bru.rowMask) ∧
      (i.group = .mau → i.rowMatch = d.mau.rowMatch ∧ i.rowMask = d.mau.rowMask)

/-- O6. For every row but BR.NONE and MEM.NONE, with every operand value, the table reader decodeTableWord, given the number of the row's own word, answers that row. That the branch kind, then the memory class, then the ALU operation names a word is the model's choice (log 1).
Rules: 30_encoding.md R80, 30_encoding.md R88. -/
def Obligations.RowWordsNameTheirRow : Prop :=
  ∀ i : Instr, i ≠ .brNone → i.isMemNone = false →
    decodeTableWord 65 (encodeInstr i).toNat = some i

/-- O7. When no fault is recorded and IDEX holds a word that decodes to d: the stage is the three meanings exec one after another from the state with the second operand value chosen and the ports cleared; if each answers a next state the step answers the last one moved to the next cycle; the first internal fault among them is the step's fault, with the state before the step and the record set; the first refusal of a request by the memory subsystem stops the step as it stands. The shape of a fault is the spec's decision D21; moving on to the next cycle's inputs is the model's choice (log 2, log 4), and so is stopping as a fault of the collaborator on a refused request, one of the two treatments the spec allows (D11, U2; log 9).
Rules: 44_stage_step.md R240, 44_stage_step.md R241, 44_stage_step.md R244, 20_memory.md R57, 92_eei_decisions.md D11, 92_eei_decisions.md D21. -/
def Obligations.StepRunsTheDecodedRows : Prop :=
  ∀ (s : State) (slot : Slot) (d : Decoded), Holds s slot d →
    step s = advance (commit s (runUnits d (beginStep s slot.cw))) ∧
    (∀ t u v, exec d.alu (beginStep s slot.cw) = .next t → exec d.bru t = .next u →
      exec d.mau u = .next v → step s = .next (nextCycle v)) ∧
    (∀ f a, exec d.alu (beginStep s slot.cw) = .fault (.internal f a) →
      step s = .fault (.internal f (recordFault s f))) ∧
    (∀ t f a, exec d.alu (beginStep s slot.cw) = .next t → exec d.bru t = .fault (.internal f a) →
      step s = .fault (.internal f (recordFault s f))) ∧
    (∀ t u f a, exec d.alu (beginStep s slot.cw) = .next t → exec d.bru t = .next u →
      exec d.mau u = .fault (.internal f a) → step s = .fault (.internal f (recordFault s f))) ∧
    (∀ t u a w k, exec d.alu (beginStep s slot.cw) = .next t → exec d.bru t = .next u →
      exec d.mau u = .fault (.memoryNotAdmitted a w k) →
      step s = .fault (.memoryNotAdmitted a w k))

/-- O8. When no fault is recorded and IDEX is empty, the stage answers the state unchanged, and the step only moves on to the next cycle's inputs (the schedule of inputs is the model's choice, log 2 and log 4).
Rules: 44_stage_step.md R240. -/
def Obligations.EmptyLatchIsABubble : Prop :=
  ∀ s : State, s.fault = none → s.idex = none → stage s = .next s ∧ step s = .next (nextCycle s)

/-- O9. In every state whose fault record is set, the step answers that recorded fault and the state as it stands, whatever the latch and the inputs hold. A fault is absorbing by the spec's decision D21; that the step answers the recorded fault again is the model's choice (log 17).
Rules: 10_state.md R28, 60_exceptions.md R266, 92_eei_decisions.md D21. -/
def Obligations.NoStepAfterAFault : Prop :=
  ∀ (s : State) (f : InternalFault), s.fault = some f → step s = .fault (.internal f s)

/-- O10. When no fault is recorded and IDEX holds a word in which two of branch-class, load, store, CSR hold, the step is refused as not well-formed, for every state and even when a tag of the word is reserved. The refusal is the spec's decision D24 (log 32).
Rules: 30_encoding.md R90, 44_stage_step.md R240, 92_eei_decisions.md D24. -/
def Obligations.IllFormedWordsAreRefused : Prop :=
  ∀ (s : State) (slot : Slot), s.fault = none → s.idex = some slot → Cw.wellFormed slot.cw = false →
    ∃ e, step s = .refused (.notWellFormed e)

/-- O11. Under every parameter record c the reset state has PC = RESET_PC, IFID and IDEX empty, fetch_stalled false, memory MEM_INIT, the console empty and no fault recorded, and State.reset is this state for the standard parameters. The values are the spec's decision D28 and the OPEN parameters of R38.
Rules: 10_state.md R38, 70_reset_and_hazards.md R290, 70_reset_and_hazards.md R291. -/
def Obligations.ResetState : Prop :=
  (∀ c : Config, (State.resetWith c).pc = c.resetPc ∧ (State.resetWith c).ifid = none ∧
    (State.resetWith c).idex = none ∧ (State.resetWith c).fetchStalled = false ∧
    (State.resetWith c).mem = c.memInit ∧ (State.resetWith c).console = [] ∧
    (State.resetWith c).fault = none ∧ (State.resetWith c).cfg = c) ∧
  State.reset = State.resetWith Config.standard

/-- O12. The reset state under the standard parameters is sound (memory canonical, parameters as R6 and R211 ask, no fault recorded), and so is the reset state under every well-formed parameter record.
Rules: 10_state.md R38, 00_scope.md R6, 43_csr_gate.md R211. -/
def Obligations.ResetIsSound : Prop :=
  Inv State.reset ∧ ∀ c : Config, c.wf = true → Inv (State.resetWith c)

/-- O13. For every state, reachable or not, in which memory is in canonical form, the parameters meet R6 and R211 and no fault is recorded: if the step answers a next state, the same holds there, whatever word the latch held and whatever inputs the next cycle brings.
Rules: 20_memory.md R53, 20_memory.md R54, 10_state.md R25, 10_state.md R28, 00_scope.md R6. -/
def Obligations.StepKeepsSoundness : Prop :=
  ∀ s t : State, Inv s → step s = .next t → Inv t

/-- O14. For every operand record and state: with s1_pc the operand is the instruction address whatever s1_idx is; without it and with s1_idx it is the number in rs1_idx; without both it is rs1Value. That the literal is rs1_idx is the spec's decision D5.
Rules: 40_alu.md R120, 30_encoding.md R83. -/
def Obligations.FirstOperandSelection : Prop :=
  ∀ (o : AluOperands) (s : State),
    (o.s1Pc = true → selectFirst o s = instrPc s) ∧
    (o.s1Pc = false → o.s1Idx = true → (selectFirst o s).toNat = o.rs1Idx.toNat) ∧
    (o.s1Pc = false → o.s1Idx = false → selectFirst o s = s.rs1Value)

/-- O15. For every operand record and state: with s1_inv the first operand is 0xFFFFFFFF minus the selected value, bit by bit its complement, for each of the three sources; without s1_inv it is the selected value.
Rules: 40_alu.md R121. -/
def Obligations.FirstOperandInversion : Prop :=
  ∀ (o : AluOperands) (s : State),
    (o.s1Inv = true →
      (firstOperand o s).toNat = 0xFFFFFFFF - (selectFirst o s).toNat ∧
      ∀ k < 32, (firstOperand o s).getLsbD k = !(selectFirst o s).getLsbD k) ∧
    (o.s1Inv = false → firstOperand o s = selectFirst o s)

/-- O16. For every operand record and state, ADD (alu_op = 1) completes with the result (s1 + s2) mod 2^32 and SUB (alu_op = 2) with (s1 - s2) mod 2^32, which is s1 + ~s2 + 1 mod 2^32; every other field of the state is unchanged: no flag, no fault.
Rules: 40_alu.md R124, 40_alu.md R125. -/
def Obligations.AddAndSubtract : Prop :=
  SelectedByAluTag 1#4 .aluAdd ∧ SelectedByAluTag 2#4 .aluSub ∧
  ∀ (o : AluOperands) (s : State),
    (∃ v : Word, exec (.aluAdd o) s = .next { s with result := v } ∧
      v.toNat = ((firstOperand o s).toNat + (secondOperand o s).toNat) % 2 ^ 32) ∧
    (∃ v : Word, exec (.aluSub o) s = .next { s with result := v } ∧
      v.toNat = (((firstOperand o s).toInt - (secondOperand o s).toInt) % 2 ^ 32).toNat ∧
      v = firstOperand o s + ~~~ secondOperand o s + 1#32)

/-- O17. For every operand record and state, AND (alu_op = 3), OR (4) and XOR (5) complete with a result whose every bit is the and, or, exclusive or of the operands' bits; every other field of the state is unchanged.
Rules: 40_alu.md R126, 40_alu.md R127, 40_alu.md R128. -/
def Obligations.BitwiseOperations : Prop :=
  SelectedByAluTag 3#4 .aluAnd ∧ SelectedByAluTag 4#4 .aluOr ∧ SelectedByAluTag 5#4 .aluXor ∧
  ∀ (o : AluOperands) (s : State),
    (∃ v : Word, exec (.aluAnd o) s = .next { s with result := v } ∧
      ∀ k < 32, v.getLsbD k = ((firstOperand o s).getLsbD k && (secondOperand o s).getLsbD k)) ∧
    (∃ v : Word, exec (.aluOr o) s = .next { s with result := v } ∧
      ∀ k < 32, v.getLsbD k = ((firstOperand o s).getLsbD k || (secondOperand o s).getLsbD k)) ∧
    (∃ v : Word, exec (.aluXor o) s = .next { s with result := v } ∧
      ∀ k < 32, v.getLsbD k = ((firstOperand o s).getLsbD k != (secondOperand o s).getLsbD k))

/-- O18. For every operand record and state, with sh the second operand modulo 32, SLL (alu_op = 6) completes with (s1 * 2^sh) mod 2^32 and SRL (alu_op = 7) with floor(unsigned(s1) / 2^sh); every other field of the state is unchanged.
Rules: 40_alu.md R130, 40_alu.md R131. -/
def Obligations.LogicalShifts : Prop :=
  SelectedByAluTag 6#4 .aluSll ∧ SelectedByAluTag 7#4 .aluSrl ∧
  ∀ (o : AluOperands) (s : State),
    (∃ v : Word, exec (.aluSll o) s = .next { s with result := v } ∧
      v.toNat = (firstOperand o s).toNat * 2 ^ ((secondOperand o s).toNat % 32) % 2 ^ 32) ∧
    (∃ v : Word, exec (.aluSrl o) s = .next { s with result := v } ∧
      v.toNat = (firstOperand o s).toNat / 2 ^ ((secondOperand o s).toNat % 32))

/-- O19. For every operand record and state, with sh the second operand modulo 32, SRA (alu_op = 8) completes with a result whose signed reading is floor(signed(s1) / 2^sh); every other field of the state is unchanged.
Rules: 40_alu.md R132. -/
def Obligations.ArithmeticShift : Prop :=
  SelectedByAluTag 8#4 .aluSra ∧
  ∀ (o : AluOperands) (s : State),
    ∃ v : Word, exec (.aluSra o) s = .next { s with result := v } ∧
      v.toInt = (firstOperand o s).toInt / 2 ^ ((secondOperand o s).toNat % 32)

/-- O20. For every operand record and state, LT (alu_op = 9) completes with 1 if signed(s1) < signed(s2) and else 0, LTU (alu_op = 10) with 1 if unsigned(s1) < unsigned(s2) and else 0; every other field of the state is unchanged.
Rules: 40_alu.md R133, 40_alu.md R134. -/
def Obligations.LessThanOperations : Prop :=
  SelectedByAluTag 9#4 .aluLt ∧ SelectedByAluTag 10#4 .aluLtu ∧
  ∀ (o : AluOperands) (s : State),
    exec (.aluLt o) s = .next { s with result :=
      if (firstOperand o s).toInt < (secondOperand o s).toInt then 1#32 else 0#32 } ∧
    exec (.aluLtu o) s = .next { s with result :=
      if (firstOperand o s).toNat < (secondOperand o s).toNat then 1#32 else 0#32 }

/-- O21. For SLL, SRL and SRA with the second operand taken from v2, and with it taken from the immediate: two second operands that agree in bits 4:0 give the same result, for every first operand; the amount is a number 0 to 31.
Rules: 40_alu.md R129. -/
def Obligations.ShiftAmountIsModulo32 : Prop :=
  ∀ (o : AluOperands) (s : State) (x : Word), x.toNat % 32 = (secondOperand o s).toNat % 32 →
    shiftAmount (secondOperand o s) < 32 ∧
    ∀ p : AluOperands, firstOperand p s = firstOperand o s → secondOperand p s = x →
      exec (.aluSll p) s = exec (.aluSll o) s ∧ exec (.aluSrl p) s = exec (.aluSrl o) s ∧
      exec (.aluSra p) s = exec (.aluSra o) s

/-- O22. For every operand record and state the ALU row NONE completes, its result is the parameter noneResult and nothing else changes; where the parameter is 0, the value the spec decides (D8), the result is 0. That the value is a parameter is the model's choice (log 8).
Rules: 40_alu.md R123, 92_eei_decisions.md D8, 93_implementation_defined.md U1. -/
def Obligations.AluNoneReadsNoOperand : Prop :=
  ∀ (o : AluOperands) (s : State),
    exec (.aluNone o) s = .next { s with result := s.cfg.noneResult } ∧
    (s.cfg.noneResult = 0#32 → ∃ t, exec (.aluNone o) s = .next t ∧ t.result = 0#32)

/-- O23. The five reserved ALU rows raise BadAluTag with their tag on every state; and a step whose accepted word has alu_op in 11 to 15 ends in BadAluTag with that tag, the state before the step kept but for the record, whatever the word's other fields are. That BadAluTag is the fault reported when the word violates another check too is the spec's decision D22, on which no claim should depend (log 18).
Rules: 40_alu.md R135, 44_stage_step.md R244, 44_stage_step.md R245, 60_exceptions.md R262, 92_eei_decisions.md D22. -/
def Obligations.ReservedAluTagsFault : Prop :=
  (∀ (o : AluOperands) (s : State),
    exec (.aluReserved11 o) s = .fault (.internal (.badAluTag 11#4) (recordFault s (.badAluTag 11#4))) ∧
    exec (.aluReserved12 o) s = .fault (.internal (.badAluTag 12#4) (recordFault s (.badAluTag 12#4))) ∧
    exec (.aluReserved13 o) s = .fault (.internal (.badAluTag 13#4) (recordFault s (.badAluTag 13#4))) ∧
    exec (.aluReserved14 o) s = .fault (.internal (.badAluTag 14#4) (recordFault s (.badAluTag 14#4))) ∧
    exec (.aluReserved15 o) s = .fault (.internal (.badAluTag 15#4) (recordFault s (.badAluTag 15#4)))) ∧
  ∀ (s : State) (slot : Slot) (d : Decoded), Holds s slot d → 11 ≤ (Cw.aluOp slot.cw).toNat →
    step s = .fault (.internal (.badAluTag (Cw.aluOp slot.cw))
      { s with fault := some (.badAluTag (Cw.aluOp slot.cw)) })

/-- O24. On every state the BRU row NONE (br_op = 0) and the MAU row NONE complete with the state unchanged: the value from the ALU, or from the BRU, is the result, whatever it is and whatever the selector. The MAU's pass-through is the spec's decision D27.
Rules: 41_branch.md R150, 42_memory_access.md R194, 92_eei_decisions.md D27. -/
def Obligations.PassThroughRows : Prop :=
  SelectedByBrTag 0#4 .brNone ∧
  ∀ (s : State) (fsel : BitVec 3), exec .brNone s = .next s ∧ exec (.memNone fsel) s = .next s

/-- O25. On every state both kinds complete with the result (pc + 4) mod 2^32. The kind EXEMPT_JUMP names changes nothing else; the other one sets PC to the value from the ALU as it stands, empties IFID and clears fetch_stalled exactly when that value differs from pc + 4, and changes nothing else otherwise. Which kind is exempt is the parameter of the spec's decision D6.
Rules: 41_branch.md R152, 41_branch.md R153, 41_branch.md R160, 41_branch.md R161, 41_branch.md R162, 41_branch.md R163, 41_branch.md R164, 92_eei_decisions.md D6. -/
def Obligations.CallJumpsLink : Prop :=
  SelectedByBrTag 1#4 .brJal ∧ SelectedByBrTag 2#4 .brJalr ∧
  ∀ s : State, ∃ link : Word, link.toNat = ((instrPc s).toNat + 4) % 2 ^ 32 ∧
    (s.cfg.exemptJump = .jal →
      exec .brJal s = .next { s with result := link } ∧
      exec .brJalr s = .next { (if s.result = link then s else Redirected s s.result) with result := link }) ∧
    (s.cfg.exemptJump = .jalr →
      exec .brJalr s = .next { s with result := link } ∧
      exec .brJal s = .next { (if s.result = link then s else Redirected s s.result) with result := link })

/-- O26. On every state BEQ (br_op = 3) and BNE (4) complete; where rs1Value equals, respectively differs from, rs2Value and the value from the ALU is not (pc + 4) mod 2^32, PC becomes that value, IFID is emptied and fetch_stalled cleared; in every other case the state is unchanged; the result stays the value from the ALU. That the correction requires taken is the spec's decision D7.
Rules: 41_branch.md R154, 41_branch.md R155, 41_branch.md R163, 41_branch.md R165, 41_branch.md R166, 41_branch.md R167, 92_eei_decisions.md D7. -/
def Obligations.EqualityBranches : Prop :=
  SelectedByBrTag 3#4 .brBeq ∧ SelectedByBrTag 4#4 .brBne ∧
  ∀ s : State,
    exec .brBeq s = .next (if s.rs1Value.toNat = s.rs2Value.toNat ∧ s.result.toNat ≠ ((instrPc s).toNat + 4) % 2 ^ 32
      then Redirected s s.result else s) ∧
    exec .brBne s = .next (if s.rs1Value.toNat ≠ s.rs2Value.toNat ∧ s.result.toNat ≠ ((instrPc s).toNat + 4) % 2 ^ 32
      then Redirected s s.result else s)

/-- O27. On every state BLT (br_op = 5) and BGE (6) complete; they are taken by the order of the signed readings of rs1Value and rs2Value, and correct PC, IFID and fetch_stalled exactly when taken to an address other than (pc + 4) mod 2^32; in every other case the state is unchanged. That the correction requires taken is the spec's decision D7.
Rules: 41_branch.md R156, 41_branch.md R157, 41_branch.md R163, 41_branch.md R165, 41_branch.md R166, 41_branch.md R167, 92_eei_decisions.md D7. -/
def Obligations.SignedBranches : Prop :=
  SelectedByBrTag 5#4 .brBlt ∧ SelectedByBrTag 6#4 .brBge ∧
  ∀ s : State,
    exec .brBlt s = .next (if s.rs1Value.toInt < s.rs2Value.toInt ∧ s.result.toNat ≠ ((instrPc s).toNat + 4) % 2 ^ 32
      then Redirected s s.result else s) ∧
    exec .brBge s = .next (if s.rs1Value.toInt ≥ s.rs2Value.toInt ∧ s.result.toNat ≠ ((instrPc s).toNat + 4) % 2 ^ 32
      then Redirected s s.result else s)

/-- O28. On every state BLTU (br_op = 7) and BGEU (8) complete; they are taken by the order of the unsigned readings of rs1Value and rs2Value, and correct PC, IFID and fetch_stalled exactly when taken to an address other than (pc + 4) mod 2^32; in every other case the state is unchanged. That the correction requires taken is the spec's decision D7.
Rules: 41_branch.md R158, 41_branch.md R159, 41_branch.md R163, 41_branch.md R165, 41_branch.md R166, 41_branch.md R167, 92_eei_decisions.md D7. -/
def Obligations.UnsignedBranches : Prop :=
  SelectedByBrTag 7#4 .brBltu ∧ SelectedByBrTag 8#4 .brBgeu ∧
  ∀ s : State,
    exec .brBltu s = .next (if s.rs1Value.toNat < s.rs2Value.toNat ∧ s.result.toNat ≠ ((instrPc s).toNat + 4) % 2 ^ 32
      then Redirected s s.result else s) ∧
    exec .brBgeu s = .next (if s.rs1Value.toNat ≥ s.rs2Value.toNat ∧ s.result.toNat ≠ ((instrPc s).toNat + 4) % 2 ^ 32
      then Redirected s s.result else s)

/-- O29. The seven reserved BRU rows raise BadBranchTag with their tag on every state; and a step whose accepted word has a defined ALU tag and br_op in 9 to 15 ends in BadBranchTag with that tag, the state before the step kept but for the record. The fault is the spec's decision D25.
Rules: 41_branch.md R151, 44_stage_step.md R244, 44_stage_step.md R245, 60_exceptions.md R263, 92_eei_decisions.md D25. -/
def Obligations.ReservedBranchTagsFault : Prop :=
  (∀ s : State,
    exec .brReserved9 s
      = .fault (.internal (.badBranchTag 9#4) (recordFault s (.badBranchTag 9#4))) ∧
    exec .brReserved10 s
      = .fault (.internal (.badBranchTag 10#4) (recordFault s (.badBranchTag 10#4))) ∧
    exec .brReserved11 s
      = .fault (.internal (.badBranchTag 11#4) (recordFault s (.badBranchTag 11#4))) ∧
    exec .brReserved12 s
      = .fault (.internal (.badBranchTag 12#4) (recordFault s (.badBranchTag 12#4))) ∧
    exec .brReserved13 s
      = .fault (.internal (.badBranchTag 13#4) (recordFault s (.badBranchTag 13#4))) ∧
    exec .brReserved14 s
      = .fault (.internal (.badBranchTag 14#4) (recordFault s (.badBranchTag 14#4))) ∧
    exec .brReserved15 s
      = .fault (.internal (.badBranchTag 15#4) (recordFault s (.badBranchTag 15#4)))) ∧
  ∀ (s : State) (slot : Slot) (d : Decoded), Holds s slot d → (Cw.aluOp slot.cw).toNat ≤ 10 →
    9 ≤ (Cw.brOp slot.cw).toNat →
    step s = .fault (.internal (.badBranchTag (Cw.brOp slot.cw))
      { s with fault := some (.badBranchTag (Cw.brOp slot.cw)) })

/-- O30. On every state in which the memory subsystem admits the request, LB (fsel = 0) and LH (fsel = 1) complete; the result is the byte at the address from the ALU, or the halfword of the bytes at it and at the next address modulo 2^32 with the lower address in the low bits, sign-extended; nothing else changes but the record of the request. Any address is accepted. The byte order and the selector numbers are the spec's decisions D10 and D4, the wrap at 2^32 is its decision D38 (log 12). That the bits of the port's data above the access are zero is the model's choice (log 33).
Rules: 42_memory_access.md R182, 42_memory_access.md R183, 20_memory.md R53, 20_memory.md R55, 20_memory.md R56, 92_eei_decisions.md D4, 92_eei_decisions.md D10, 92_eei_decisions.md D38. -/
def Obligations.SignedLoads : Prop :=
  SelectedByMemBits 8#6 .memLb ∧ SelectedByMemBits 9#6 .memLh ∧
  ∀ s : State,
    (s.cfg.admits s.result .byte .load = true →
      exec .memLb s = .next { s with
        result := (readByte s s.result).signExtend 32,
        memReq := some (.read s.result .byte ((readByte s s.result).setWidth 32)) }) ∧
    (s.cfg.admits s.result .half .load = true →
      exec .memLh s = .next { s with
        result := (readByte s (s.result + 1#32) ++ readByte s s.result).signExtend 32,
        memReq := some (.read s.result .half
          ((readByte s (s.result + 1#32) ++ readByte s s.result).setWidth 32)) })

/-- O31. On every state in which the memory subsystem admits the request, LBU (fsel = 4), LHU (fsel = 5) and LW (fsel = 2) complete; the result is the bytes at the consecutive addresses modulo 2^32 from the value of the ALU on, the lowest address in the low bits, zero-extended; nothing else changes but the record of the request. The byte order and the selector numbers are the spec's decisions D10 and D4, the wrap at 2^32 is its decision D38 (log 12). That the bits of the port's data above the access are zero is the model's choice (log 33).
Rules: 42_memory_access.md R184, 42_memory_access.md R185, 42_memory_access.md R186, 20_memory.md R53, 20_memory.md R55, 20_memory.md R56, 92_eei_decisions.md D4, 92_eei_decisions.md D10, 92_eei_decisions.md D38. -/
def Obligations.UnsignedLoads : Prop :=
  SelectedByMemBits 12#6 .memLbu ∧ SelectedByMemBits 13#6 .memLhu ∧ SelectedByMemBits 10#6 .memLw ∧
  ∀ s : State,
    (s.cfg.admits s.result .byte .load = true →
      exec .memLbu s = .next { s with
        result := (readByte s s.result).setWidth 32,
        memReq := some (.read s.result .byte ((readByte s s.result).setWidth 32)) }) ∧
    (s.cfg.admits s.result .half .load = true →
      exec .memLhu s = .next { s with
        result := (readByte s (s.result + 1#32) ++ readByte s s.result).setWidth 32,
        memReq := some (.read s.result .half
          ((readByte s (s.result + 1#32) ++ readByte s s.result).setWidth 32)) }) ∧
    (s.cfg.admits s.result .word .load = true →
      exec .memLw s = .next { s with
        result := readByte s (s.result + 3#32) ++ readByte s (s.result + 2#32)
          ++ readByte s (s.result + 1#32) ++ readByte s s.result,
        memReq := some (.read s.result .word (readByte s (s.result + 3#32)
          ++ readByte s (s.result + 2#32) ++ readByte s (s.result + 1#32) ++ readByte s s.result)) })

/-- O32. On every state whose address lies outside the console window and is admitted, each store completes: the byte at address + k (modulo 2^32) is bits 8k+7 to 8k of the store value for k below the width, every other address reads as before, and no other field changes but the record of the request; the result stays the address. The byte order, the store's result and the selector numbers are the spec's decisions D10, D27 and D4, the wrap at 2^32 is its decision D38 (log 12). That the bits of the port's data above the store are zero is the model's choice (log 33).
Rules: 42_memory_access.md R188, 42_memory_access.md R189, 42_memory_access.md R190, 42_memory_access.md R192, 20_memory.md R54, 20_memory.md R56, 92_eei_decisions.md D4, 92_eei_decisions.md D10, 92_eei_decisions.md D38. -/
def Obligations.StoresWriteTheirBytes : Prop :=
  SelectedByMemBits 16#6 .memSb ∧ SelectedByMemBits 17#6 .memSh ∧ SelectedByMemBits 18#6 .memSw ∧
  ∀ (i : Instr) (w : Width), (i, w) ∈ [(Instr.memSb, Width.byte), (.memSh, .half), (.memSw, .word)] →
    ∀ s : State, s.cfg.inConsole s.result = false → s.cfg.admits s.result w .store = true →
      ∃ m, exec i s = .next { s with mem := m, memReq := some (.write s.result w (zeroExtendFrom w s.v2)) } ∧
        (∀ k < w.bytes, Memory.read m (s.result + BitVec.ofNat 32 k).toNat
          = some (s.v2.extractLsb' (8 * k) 8)) ∧
        (∀ x : Word, (∀ k < w.bytes, x ≠ s.result + BitVec.ofNat 32 k) →
          Memory.read m x.toNat = Memory.read s.mem x.toNat)

/-- O33. On every state with IO_COUT_ADDR <= address < IO_COUT_ADDR + IO_COUT_SIZE, each store completes whatever the memory subsystem admits: the low 1, 2 or 4 bytes of the store value are appended to the console, lowest first, and no other field changes but the record of the write. The test on the first byte alone and the byte order are the spec's decisions D12 and D13. That the bits of the port's data above the store are zero is the model's choice (log 33).
Rules: 20_memory.md R58, 20_memory.md R59, 42_memory_access.md R188, 42_memory_access.md R189, 42_memory_access.md R190, 92_eei_decisions.md D12, 92_eei_decisions.md D13. -/
def Obligations.ConsoleStoresAppend : Prop :=
  ∀ s : State, s.cfg.coutAddr.toNat ≤ s.result.toNat →
    s.result.toNat < s.cfg.coutAddr.toNat + s.cfg.coutSize →
    exec .memSb s = .next { s with
      console := s.console ++ [s.v2.extractLsb' 0 8],
      cout := some ⟨.byte, s.v2 &&& 0xFF#32⟩ } ∧
    exec .memSh s = .next { s with
      console := s.console ++ [s.v2.extractLsb' 0 8, s.v2.extractLsb' 8 8],
      cout := some ⟨.half, s.v2 &&& 0xFFFF#32⟩ } ∧
    exec .memSw s = .next { s with
      console := s.console ++ [s.v2.extractLsb' 0 8, s.v2.extractLsb' 8 8, s.v2.extractLsb' 16 8,
        s.v2.extractLsb' 24 8],
      cout := some ⟨.word, s.v2⟩ }

/-- O34. The three rejected load rows and the five rejected store rows raise BadWidthSelector with the direction and the selector on every state; and a step whose accepted word has a defined ALU tag and such a selector ends in that fault, the state before the step kept but for the record. Rejecting store selectors 4 and 5 is the spec's decision D26.
Rules: 42_memory_access.md R187, 42_memory_access.md R191, 44_stage_step.md R244, 44_stage_step.md R245, 60_exceptions.md R264, 92_eei_decisions.md D26. -/
def Obligations.ReservedSelectorsFault : Prop :=
  (∀ s : State,
    exec .memLoadReserved3 s = raise (.badWidthSelector .load 3#3) s ∧
    exec .memLoadReserved6 s = raise (.badWidthSelector .load 6#3) s ∧
    exec .memLoadReserved7 s = raise (.badWidthSelector .load 7#3) s ∧
    exec .memStoreReserved3 s = raise (.badWidthSelector .store 3#3) s ∧
    exec .memStoreReserved4 s = raise (.badWidthSelector .store 4#3) s ∧
    exec .memStoreReserved5 s = raise (.badWidthSelector .store 5#3) s ∧
    exec .memStoreReserved6 s = raise (.badWidthSelector .store 6#3) s ∧
    exec .memStoreReserved7 s = raise (.badWidthSelector .store 7#3) s) ∧
  ∀ (s : State) (slot : Slot) (d : Decoded) (k : AccessKind), Holds s slot d →
    (Cw.aluOp slot.cw).toNat ≤ 10 →
    (k = .load ∧ Cw.isLoad slot.cw = true ∧ (Cw.fsel slot.cw).toNat ∈ [3, 6, 7] ∨
      k = .store ∧ Cw.isStore slot.cw = true ∧ 3 ≤ (Cw.fsel slot.cw).toNat) →
    step s = .fault (.internal (.badWidthSelector k (Cw.fsel slot.cw))
      { s with fault := some (.badWidthSelector k (Cw.fsel slot.cw)) })

/-- O35. On every state in which MemAdmits is false for the request, each load, and each store outside the console window, stops as the collaborator's refusal of that address, width and direction. Treating it as a fault of the collaborator is one of the two treatments the spec allows (D11, U2; log 9).
Rules: 20_memory.md R57, 93_implementation_defined.md U2. -/
def Obligations.RefusedRequestsStop : Prop :=
  ∀ (s : State) (w : Width),
    (s.cfg.admits s.result w .load = false →
      ∀ i ∈ (match w with
        | .byte => [Instr.memLb, .memLbu]
        | .half => [.memLh, .memLhu]
        | .word => [.memLw]), exec i s = .fault (.memoryNotAdmitted s.result w .load)) ∧
    (s.cfg.inConsole s.result = false → s.cfg.admits s.result w .store = false →
      exec (match w with
        | .byte => .memSb
        | .half => .memSh
        | .word => .memSw) s = .fault (.memoryNotAdmitted s.result w .store))

/-- O36. For every state whose address lies outside the console window and is admitted: after SB, LB and LBU at the same address return the low byte of the store value sign- and zero-extended; after SH, LH and LHU the low halfword; after SW, LW the value. That an access past 0xFFFFFFFF wraps is the spec's decision D38 (log 12).
Rules: 42_memory_access.md R196, 20_memory.md R53, 20_memory.md R54, 92_eei_decisions.md D38. -/
def Obligations.StoreThenLoadRoundTrip : Prop :=
  ∀ s t : State, s.cfg.inConsole s.result = false →
    (s.cfg.admits s.result .byte .load = true → exec .memSb s = .next t →
      (∃ u, exec .memLb t = .next u ∧ u.result = (s.v2.extractLsb' 0 8).signExtend 32) ∧
      (∃ u, exec .memLbu t = .next u ∧ u.result = (s.v2.extractLsb' 0 8).setWidth 32)) ∧
    (s.cfg.admits s.result .half .load = true → exec .memSh s = .next t →
      (∃ u, exec .memLh t = .next u ∧ u.result = (s.v2.extractLsb' 0 16).signExtend 32) ∧
      (∃ u, exec .memLhu t = .next u ∧ u.result = (s.v2.extractLsb' 0 16).setWidth 32)) ∧
    (s.cfg.admits s.result .word .load = true → exec .memSw s = .next t →
      ∃ u, exec .memLw t = .next u ∧ u.result = s.v2)

/-- O37. For every state, address and word, after MemWrite(a, 4, v): the byte at a + k is bits 8k+7 to 8k of v for k = 0 to 3, the halfword at a is the low half, at a + 2 the high half, and the word at a is v, also where the addresses wrap at 2^32. The byte order is the spec's decision D10, and that addresses wrap at 2^32 is its decision D38, which the source does not say (log 12).
Rules: 20_memory.md R51, 20_memory.md R53, 20_memory.md R54, 20_memory.md R56, 92_eei_decisions.md D10, 92_eei_decisions.md D38. -/
def Obligations.MixedWidthReadsAreLittleEndian : Prop :=
  ∀ (s : State) (a v : Word),
    (∀ k < 4, memRead (memWrite s a .word v) (a + BitVec.ofNat 32 k) .byte
      = (v.extractLsb' (8 * k) 8).setWidth 32) ∧
    memRead (memWrite s a .word v) a .half = (v.extractLsb' 0 16).setWidth 32 ∧
    memRead (memWrite s a .word v) (a + 2#32) .half = (v.extractLsb' 16 16).setWidth 32 ∧
    memRead (memWrite s a .word v) a .word = v

/-- O38. On every state whose sixteen CSR addresses are distinct: CsrRead at the address of a control/status CSR is 0, at the four counter addresses bits 31:0 and 63:32 of cycles and of instrs, and at every other 12-bit address the fault CsrReadDenied with that address. It answers a value only, so it changes no state.
Rules: 43_csr_gate.md R212, 43_csr_gate.md R215. -/
def Obligations.CsrGateReads : Prop :=
  ∀ s : State, (CsrName.all.map s.cfg.csrAddr.addr).Nodup →
    (∀ n : CsrName, n.isControl = true → csrRead s (s.cfg.csrAddr.addr n) = .ok 0#32) ∧
    csrRead s s.cfg.csrAddr.mcycle = .ok (s.cycles.extractLsb' 0 32) ∧
    csrRead s s.cfg.csrAddr.mcycleh = .ok (s.cycles.extractLsb' 32 32) ∧
    csrRead s s.cfg.csrAddr.minstret = .ok (s.instrs.extractLsb' 0 32) ∧
    csrRead s s.cfg.csrAddr.minstreth = .ok (s.instrs.extractLsb' 32 32) ∧
    ∀ a : CsrAddr, (∀ n : CsrName, a ≠ s.cfg.csrAddr.addr n) → csrRead s a = .error (.csrReadDenied a)

/-- O39. On every state whose sixteen CSR addresses are distinct: CsrWrite at the address of a control/status CSR is accepted and changes no state, so every later read still answers 0; at every other 12-bit address, the four counter addresses among them, it is the fault CsrWriteDenied with the address and the attempted value. That a write to a counter address is denied is the spec's decision D20 (C6, log 19).
Rules: 43_csr_gate.md R216, 43_csr_gate.md R218, 43_csr_gate.md R219, 90_conflicts.md C6, 92_eei_decisions.md D20. -/
def Obligations.CsrGateWrites : Prop :=
  ∀ (s : State) (v : Word), (CsrName.all.map s.cfg.csrAddr.addr).Nodup →
    (∀ n : CsrName, n.isControl = true → csrWrite s (s.cfg.csrAddr.addr n) v = .ok s) ∧
    (∀ n : CsrName, n.isControl = false →
      csrWrite s (s.cfg.csrAddr.addr n) v = .error (.csrWriteDenied (s.cfg.csrAddr.addr n) v)) ∧
    ∀ a : CsrAddr, (∀ n : CsrName, a ≠ s.cfg.csrAddr.addr n) →
      csrWrite s a v = .error (.csrWriteDenied a v)

/-- O40. For every state, selector and address, with new the value from the ALU and old the second operand value: at a control/status address the row completes with old as the result and nothing else changed, whatever new is; at a counter address it completes so when new equals old and else raises CsrWriteDenied with the address and new; at an address outside the allow-list it raises CsrReadDenied. Which of the two values is written and which returned is the spec's decision D19 (C4), that a changing write to a counter is denied is its decision D20 (C6, log 19), and that an unlisted address is reported as CsrReadDenied, whether or not a write would follow, is its decision D22; that the row itself reports the denied read is the model's placing (log 18).
Rules: 42_memory_access.md R193, 43_csr_gate.md R216, 43_csr_gate.md R218, 44_stage_step.md R245, 90_conflicts.md C4, 92_eei_decisions.md D19, 92_eei_decisions.md D20, 92_eei_decisions.md D22. -/
def Obligations.CsrRowReadsThenWrites : Prop :=
  ∀ (s : State) (fsel : BitVec 3) (a : CsrAddr),
    (∀ n, s.cfg.csrAddr.lookup a = some n → (n.isControl = true ∨ s.result = s.v2) →
      exec (.memCsr fsel a) s = .next { s with result := s.v2 }) ∧
    (∀ n, s.cfg.csrAddr.lookup a = some n → n.isControl = false → s.result ≠ s.v2 →
      exec (.memCsr fsel a) s = .fault (.internal (.csrWriteDenied a s.result)
        { s with fault := some (.csrWriteDenied a s.result) })) ∧
    (s.cfg.csrAddr.lookup a = none →
      exec (.memCsr fsel a) s = .fault (.internal (.csrReadDenied a)
        { s with fault := some (.csrReadDenied a) }))

/-- O41. For every state whose latch holds a CSR-class word with a defined ALU tag and the address of a control/status CSR: the stage completes, the result is 0, and every other field is that of the step's start (memory, console, PC, latches, counters unchanged), whatever new value the ALU computed. How the old value reaches the ALU is the spec's decision D18, and that the old value is returned its decision D19 (log 19).
Rules: 43_csr_gate.md R213, 43_csr_gate.md R217, 42_memory_access.md R193, 44_stage_step.md R241, 44_stage_step.md R243, 92_eei_decisions.md D18. -/
def Obligations.ControlCsrStepReadsZero : Prop :=
  ∀ (s : State) (slot : Slot) (d : Decoded) (fsel : BitVec 3) (a : CsrAddr) (n : CsrName),
    Holds s slot d → d.alu.isReserved = false → d.mau = .memCsr fsel a →
    s.cfg.csrAddr.lookup a = some n → n.isControl = true →
    stage s = .next { s with v2 := 0#32, result := 0#32, redirect := none, memReq := none, cout := none }

/-- O42. For every state whose latch holds a CSR-class word with a defined ALU tag and the address of a counter half with value v: the ALU row computes a value x from v as second operand; if x equals v the stage completes with the result v; if not, it ends in CsrWriteDenied with the address and x, nothing of the step committed. How the old value reaches the ALU is the spec's decision D18, that the new value is written, so that the fault carries x, and the old one returned is its decision D19 (C4), and that a changing write to a counter is denied is its decision D20 (C6); all three stand in log 19.
Rules: 43_csr_gate.md R214, 43_csr_gate.md R218, 42_memory_access.md R193, 44_stage_step.md R243, 44_stage_step.md R244, 92_eei_decisions.md D18, 92_eei_decisions.md D20, 90_conflicts.md C4, 92_eei_decisions.md D19. -/
def Obligations.CounterCsrStep : Prop :=
  ∀ (s : State) (slot : Slot) (d : Decoded) (fsel : BitVec 3) (a : CsrAddr) (n : CsrName),
    Holds s slot d → d.alu.isReserved = false → d.mau = .memCsr fsel a →
    s.cfg.csrAddr.lookup a = some n → n.isControl = false →
    ∃ x : Word, exec d.alu (beginStep s slot.cw) = .next { beginStep s slot.cw with result := x } ∧
      (beginStep s slot.cw).v2 = csrValue s n ∧
      (x = csrValue s n →
        stage s = .next { beginStep s slot.cw with result := csrValue s n }) ∧
      (x ≠ csrValue s n →
        stage s = .fault (.internal (.csrWriteDenied a x)
          { s with fault := some (.csrWriteDenied a x) }))

/-- O43. For every state whose latch holds a CSR-class word with a defined ALU tag and imm[11:0] outside the sixteen addresses, whatever the upper 20 bits of imm: the step ends in CsrReadDenied with that address, nothing of it committed. The priority is the spec's decision D22, and that the address is 12 bits wide and the upper bits of imm are ignored is its decision D15 (log 20).
Rules: 43_csr_gate.md R210, 43_csr_gate.md R215, 44_stage_step.md R244, 44_stage_step.md R245, 60_exceptions.md R265, 92_eei_decisions.md D22, 92_eei_decisions.md D15. -/
def Obligations.UnlistedCsrStepFaults : Prop :=
  ∀ (s : State) (slot : Slot) (d : Decoded), Holds s slot d → (Cw.aluOp slot.cw).toNat ≤ 10 →
    Cw.isCsr slot.cw = true →
    (∀ n : CsrName, slot.cw.extractLsb' 33 12 ≠ s.cfg.csrAddr.addr n) →
    step s = .fault (.internal (.csrReadDenied (slot.cw.extractLsb' 33 12))
      { s with fault := some (.csrReadDenied (slot.cw.extractLsb' 33 12)) })

/-- O44. For every state whose latch holds a CSR-class word and every other value of rs2Value: if the stage completes, it completes from the changed state with the same state but for that input; if it ends in an internal fault, it ends in the same one. Taking the second operand from the gate is the spec's decision D18.
Rules: 44_stage_step.md R241, 44_stage_step.md R243, 92_eei_decisions.md D18. -/
def Obligations.CsrWordsIgnoreTheSecondRegister : Prop :=
  ∀ (s : State) (slot : Slot) (x : Word), s.idex = some slot → Cw.isCsr slot.cw = true →
    (∀ t, stage s = .next t → stage { s with rs2Value := x } = .next { t with rs2Value := x }) ∧
    (∀ f t, stage s = .fault (.internal f t) →
      stage { s with rs2Value := x } = .fault (.internal f { t with rs2Value := x }))

/-- O45. For every row that is no store and every state, if its meaning answers a next state: every byte of memory reads as before, the memory list, the console, the latch IDEX, the operands, the counters, the schedule, the second operand value, the parameters and the fault record are unchanged; PC, IFID, fetch_stalled and the redirect port are unchanged unless it is a BRU row; the memory request port is unchanged unless it is a load; the console port is unchanged. That the inputs, their schedule and the parameters are fields of the state is the model's choice (log 2, log 5).
Rules: 40_alu.md R136, 41_branch.md R163, 42_memory_access.md R182, 42_memory_access.md R193, 44_stage_step.md R247. -/
def Obligations.NonStoringFrame : Prop :=
  ∀ (i : Instr) (s t : State), i.storeWidth = none → exec i s = .next t →
    (∀ a : Word, readByte t a = readByte s a) ∧ t.mem = s.mem ∧ t.console = s.console ∧
    SameInputs s t ∧ t.cout = s.cout ∧
    (i.group ≠ .bru → SameFrontEnd s t ∧ t.redirect = s.redirect) ∧
    (i ∉ [Instr.memLb, .memLh, .memLw, .memLbu, .memLhu] → t.memReq = s.memReq)

/-- O46. For SB, SH, SW and every state, if the meaning answers a next state: for the address a that accessAddress gives, every byte outside the width's bytes from a on (modulo 2^32) reads as before, and where a lies in the console window every byte of memory does; where it does not the console is unchanged; the result, PC, IFID, fetch_stalled, the redirect port and all inputs are unchanged. That a store delivers its address (D27, log 21) and that the window is tested on the first byte alone (D12, log 14) and that addresses wrap (D38, log 12) are the spec's own decisions. That the inputs, their schedule and the parameters are fields of the state is the model's choice (log 2, log 5).
Rules: 42_memory_access.md R188, 42_memory_access.md R189, 42_memory_access.md R190, 42_memory_access.md R192, 20_memory.md R54, 20_memory.md R59. -/
def Obligations.StoreFrame : Prop :=
  ∀ (i : Instr) (w : Width) (s t : State), i.storeWidth = some w → exec i s = .next t →
    (∀ a : Word, accessAddress s = a →
      (∀ x : Word, (∀ k < w.bytes, x ≠ a + BitVec.ofNat 32 k) → readByte t x = readByte s x) ∧
      (s.cfg.inConsole a = true → (∀ x : Word, readByte t x = readByte s x) ∧ t.memReq = s.memReq) ∧
      (s.cfg.inConsole a = false → t.console = s.console ∧ t.cout = s.cout)) ∧
    t.result = s.result ∧ SameInputs s t ∧ SameFrontEnd s t ∧ t.redirect = s.redirect

/-- O47. For every state, if the stage answers a next state, then IDEX, rs1Value, rs2Value, cycles, instrs, the schedule, the parameters and the fault record are unchanged; and where it empties IFID by a correction, IDEX still holds the word it held: the flush discards the one instruction in IFID only. That the inputs and the schedule of inputs are fields of the state is the model's choice (log 2), and so is holding the parameters there (log 5).
Rules: 10_state.md R23, 10_state.md R20, 10_state.md R28, 10_state.md R31, 10_state.md R34, 00_scope.md R6, 41_branch.md R163. -/
def Obligations.StageKeepsItsInputs : Prop :=
  ∀ s t : State, stage s = .next t →
    t.idex = s.idex ∧ t.rs1Value = s.rs1Value ∧ t.rs2Value = s.rs2Value ∧ t.cycles = s.cycles ∧
    t.instrs = s.instrs ∧ t.env = s.env ∧ t.cfg = s.cfg ∧ t.fault = s.fault ∧
    (t.ifid = s.ifid ∨ t.ifid = none)

/-- O48. For every state, if the stage answers a next state, either PC, IFID and fetch_stalled are all unchanged, or the latch held a branch-class word and for one target, different from its address plus 4, PC is the target, IFID is empty, fetch_stalled is false and the redirect port carries the target. No half-applied flush exists.
Rules: 10_state.md R21, 10_state.md R22, 10_state.md R24, 41_branch.md R163, 44_stage_step.md R246. -/
def Obligations.OnlyCorrectionsTouchTheFrontEnd : Prop :=
  ∀ s t : State, stage s = .next t →
    SameFrontEnd s t ∨
      ∃ slot d target, s.idex = some slot ∧ decode slot.cw = .ok d ∧ d.bru ≠ .brNone ∧
        target ≠ slot.pc + 4#32 ∧ t.pc = target ∧ t.ifid = none ∧ t.fetchStalled = false ∧
        t.redirect = some target

/-- O49. For every state, if the stage answers a next state, either memory and console are unchanged, or the latch held a store word and, with a the step's result and v the input rs2Value: where a lies in the console window the low bytes of v are appended to the console and memory is unchanged; where it does not the console is unchanged and the low bytes of v are written to memory from a on, the request having been admitted. That a store delivers its address (D27, log 21), that the window is tested on the first byte alone (D12, log 14), that addresses wrap (D38, log 12) and the byte order (D10, D13, log 11, log 14) are the spec's own decisions.
Rules: 10_state.md R25, 10_state.md R26, 20_memory.md R54, 20_memory.md R58, 20_memory.md R59, 42_memory_access.md R180, 42_memory_access.md R192, 92_eei_decisions.md D10, 92_eei_decisions.md D12, 92_eei_decisions.md D13, 92_eei_decisions.md D27. -/
def Obligations.MemoryAndConsoleChangeOnlyByStores : Prop :=
  ∀ s t : State, stage s = .next t →
    (t.mem = s.mem ∧ t.console = s.console) ∨
      ∃ slot d w, s.idex = some slot ∧ decode slot.cw = .ok d ∧ d.mau.storeWidth = some w ∧
        ((s.cfg.inConsole t.result = true ∧ t.mem = s.mem ∧
            t.console = s.console ++ littleEndian w.bytes s.rs2Value) ∨
          (s.cfg.inConsole t.result = false ∧ s.cfg.admits t.result w .store = true ∧
            t.console = s.console ∧
            t.mem = Memory.writeBytes s.mem t.result (littleEndian w.bytes s.rs2Value)))

/-- O50. For every state whose latch holds a word that decodes to d, if the stage answers a next state: not both the memory port and the console port are active, neither is active unless the word is a load or a store, and the redirect port is inactive unless the word is branch-class.
Rules: 42_memory_access.md R180, 10_state.md R32, 10_state.md R33, 10_state.md R35. -/
def Obligations.AtMostOneRequestPerStep : Prop :=
  ∀ (s t : State) (slot : Slot) (d : Decoded), Holds s slot d → stage s = .next t →
    (t.memReq = none ∨ t.cout = none) ∧
    (d.mau.storeWidth = none → t.cout = none) ∧
    (d.mau.storeWidth = none → d.mau ∉ [Instr.memLb, .memLh, .memLw, .memLbu, .memLhu] →
      t.memReq = none) ∧
    (d.bru = .brNone → t.redirect = none)

/-- O51. For every state, if the step ends in an internal fault, the state it leaves is the state before the step with that fault recorded and nothing else changed. The shape of a fault is the spec's decision D21.
Rules: 44_stage_step.md R244, 60_exceptions.md R266, 60_exceptions.md R267, 10_state.md R28, 92_eei_decisions.md D21. -/
def Obligations.FaultsCommitNothing : Prop :=
  ∀ (s t : State) (f : InternalFault), step s = .fault (.internal f t) →
    t = { s with fault := some f }

/-- O52. For every state without a recorded fault whose latch holds a word that decodes to rows none of which is reserved, whose parameters admit every request, and whose CSR address, if it is a CSR-class word, is that of a control/status CSR: the step answers a next state, whatever the operands, the address, the counters and the memory are. Loads and stores whose own request is admitted among others that are not, and counter reads that write nothing, complete by SignedLoads, UnsignedLoads, StoresWriteTheirBytes, CsrRowReadsThenWrites and CounterCsrStep.
Rules: 00_scope.md R10, 40_alu.md R136, 42_memory_access.md R180, 44_stage_step.md R240, 60_exceptions.md R260. -/
def Obligations.CleanWordsComplete : Prop :=
  ∀ (s : State) (slot : Slot) (d : Decoded), Holds s slot d →
    d.alu.isReserved = false → d.bru.isReserved = false → d.mau.isReserved = false →
    (∀ a w k, s.cfg.admits a w k = true) →
    (∀ fsel a, d.mau = .memCsr fsel a →
      ∃ n, s.cfg.csrAddr.lookup a = some n ∧ n.isControl = true) →
    ∃ t, step s = .next t

/-- O53. For every state without a recorded fault whose latch holds the all-zero control word, the stage completes; PC, IFID, fetch_stalled, memory, console and fault record are unchanged, no port is active, and the result is the parameter noneResult, 0 by the spec's decision D8.
Rules: 30_encoding.md R92, 40_alu.md R123, 92_eei_decisions.md D8. -/
def Obligations.NopStep : Prop :=
  ∀ (s : State) (pc : Word) (uid : Nat), s.fault = none → s.idex = some ⟨0#65, pc, uid⟩ →
    stage s = .next { s with
      v2 := s.rs2Value, result := s.cfg.noneResult, redirect := none, memReq := none, cout := none }

/-- O54. For every well-formed decoded word, every state with its encoding in the latch, and every other value of the two index fields and of the identifier: if the stage completes, it completes from the changed state with the same state but for the latch; an internal fault is the same fault.
Rules: 30_encoding.md R83, 30_encoding.md R89, 10_state.md R36. -/
def Obligations.IndexFieldsAndIdentifierAreIgnored : Prop :=
  ∀ (s : State) (d : Decoded) (pc : Word) (uid uid' : Nat) (x y : BitVec 5), d.wellFormed = true →
    s.idex = some ⟨encode d, pc, uid⟩ →
    let slot' : Slot := ⟨encode { d with rs2Idx := x, rdIdx := y }, pc, uid'⟩
    (∀ t, stage s = .next t → stage { s with idex := some slot' } = .next { t with idex := some slot' }) ∧
    (∀ f t, stage s = .fault (.internal f t) →
      stage { s with idex := some slot' } = .fault (.internal f { t with idex := some slot' }))

/-- O55. For every state whose latch holds a word, if the stage completes with the redirect port carrying a target and the front end makes no update of its own in the next cycle's input, the step answers a state in which PC is the target, IFID is empty and fetch_stalled is false. The schedule of inputs is the model's choice (log 2).
Rules: 44_stage_step.md R246, 70_reset_and_hazards.md R295. -/
def Obligations.CorrectionIsVisibleNextCycle : Prop :=
  ∀ (s t : State) (slot : Slot) (target : Word), s.idex = some slot → stage s = .next t →
    t.redirect = some target → (∀ c rest, s.env = c :: rest → c.front = none) →
    ∃ u, step s = .next u ∧ u.pc = target ∧ u.ifid = none ∧ u.fetchStalled = false

/-- O56. For every state without a recorded fault whose latch holds the word of a store word instruction (ADD of rs1Value and the immediate 0), and whose next cycle brings the load word instruction at the same rs1Value, outside the console window and admitted: both steps complete, the first delivers the address and the second the stored value. Program order is the spec's decision D31, and that the store delivers its address is its decision D27 (log 21); the schedule of inputs is the model's choice (log 2).
Rules: 20_memory.md R64, 42_memory_access.md R192, 42_memory_access.md R196, 92_eei_decisions.md D27, 92_eei_decisions.md D31, 44_stage_step.md R246. -/
def Obligations.StoredWordIsLoadedNextCycle : Prop :=
  ∀ (s : State) (c : CycleInput) (rest : List CycleInput) (p q : Word) (m n : Nat), s.fault = none →
    s.idex = some ⟨encode ⟨.aluAdd { AluOperands.zero with s2Imm := true }, .brNone, .memSw, 0#5, 0#5⟩, p, m⟩ →
    s.env = c :: rest →
    c.idex = some ⟨encode ⟨.aluAdd { AluOperands.zero with s2Imm := true }, .brNone, .memLw, 0#5, 0#5⟩, q, n⟩ →
    c.rs1Value = s.rs1Value → s.cfg.inConsole s.rs1Value = false →
    s.cfg.admits s.rs1Value .word .store = true → s.cfg.admits s.rs1Value .word .load = true →
    ∃ t u, step s = .next t ∧ t.result = s.rs1Value ∧ step t = .next u ∧ u.result = s.rs2Value

/-- O57. For every operand record and state: with s2_imm the second operand is the 32-bit immediate, without it the second operand value v2, whatever the other flags are: s1_inv does not invert it.
Rules: 40_alu.md R122. -/
def Obligations.SecondOperandSelection : Prop :=
  ∀ (o : AluOperands) (s : State),
    (o.s2Imm = true → secondOperand o s = o.imm) ∧ (o.s2Imm = false → secondOperand o s = s.v2)

/-- O58. For every state whose latch holds an accepted word: where is_csr is 0 the units start from the second operand value rs2Value, so that the second ALU operand is the immediate or rs2Value; where is_csr is 1 and the gate answers a value for imm[11:0] they start from that value. For a word with a defined ALU tag, no branch and no class the stage completes with the value x that its ALU row computes with v2 = rs2Value, and nothing else changes but the cleared ports. That a CSR word takes the old value there is the spec's decision D18, the 12-bit address its decision D15 (log 20), the pass-through of the MAU its decision D27.
Rules: 44_stage_step.md R241, 44_stage_step.md R243, 44_stage_step.md R247, 40_alu.md R122, 42_memory_access.md R194, 92_eei_decisions.md D18, 92_eei_decisions.md D27. -/
def Obligations.SecondOperandValueIsRs2Value : Prop :=
  ∀ (s : State) (slot : Slot) (d : Decoded), Holds s slot d →
    (slot.cw.getLsbD 13 = false → (beginStep s slot.cw).v2 = s.rs2Value ∧
      ∀ o : AluOperands, secondOperand o (beginStep s slot.cw) = if o.s2Imm then o.imm else s.rs2Value) ∧
    (slot.cw.getLsbD 13 = true → ∀ v, csrRead s (slot.cw.extractLsb' 33 12) = .ok v →
      (beginStep s slot.cw).v2 = v) ∧
    (d.alu.isReserved = false → d.bru = .brNone → d.mau.isMemNone = true →
      ∃ x : Word, exec d.alu { s with v2 := s.rs2Value } = .next { s with v2 := s.rs2Value, result := x } ∧
        stage s = .next { s with
          v2 := s.rs2Value, result := x, redirect := none, memReq := none, cout := none })

/-- O59. For every state and every value of the parameter FETCH_SEES_STORES: if the stage completes, it completes with that value with the same state but for the parameter, and an internal fault is the same fault. The parameter is OPEN by the spec's decision D32, and that no step reads it is the model's reading of R4 and R66 (log 27).
Rules: 20_memory.md R66, 00_scope.md R4, 00_scope.md R6, 92_eei_decisions.md D32. -/
def Obligations.FetchSeesStoresIsNotRead : Prop :=
  ∀ (s : State) (b : Bool),
    (∀ t, stage s = .next t → stage { s with cfg := { s.cfg with fetchSeesStores := b } }
      = .next { t with cfg := { t.cfg with fetchSeesStores := b } }) ∧
    (∀ f t, stage s = .fault (.internal f t) → stage { s with cfg := { s.cfg with fetchSeesStores := b } }
      = .fault (.internal f { t with cfg := { t.cfg with fetchSeesStores := b } }))
end

