-- ==== Sys2Proof/Laws/Bits.lean ====
section
/-! SUPPORT. Bit fields as numbers, and a word as its bytes. -/

namespace Sys2Proof

/-- Bit `k` as a digit of the number. -/
theorem getLsbD_eq_digit {n : Nat} (w : BitVec n) (k : Nat) :
    w.getLsbD k = decide (w.toNat / 2 ^ k % 2 = 1) := by
  rw [BitVec.getLsbD, Nat.testBit_eq_decide_div_mod_eq]

/-- The number in a field of `l` bits from bit `k` on. -/
theorem extractLsb'_toNat_eq {n : Nat} (w : BitVec n) (k l : Nat) :
    (w.extractLsb' k l).toNat = w.toNat / 2 ^ k % 2 ^ l := by
  simp [BitVec.extractLsb'_toNat, Nat.shiftRight_eq_div_pow]

/-- The number of a concatenation. -/
theorem append_toNat_eq {n m : Nat} (x : BitVec n) (y : BitVec m) :
    (x ++ y).toNat = x.toNat * 2 ^ m + y.toNat := by
  rw [BitVec.toNat_append, Nat.shiftLeft_eq, Nat.mul_comm, Nat.two_pow_add_eq_or_of_lt y.isLt]

/-- Two neighbouring bytes of a word are one of its halfwords. -/
theorem bytes_append_half (v : Word) (k : Nat) :
    (v.extractLsb' (8 * (k + 1)) 8 ++ v.extractLsb' (8 * k) 8 : BitVec 16) = v.extractLsb' (8 * k) 16 := by
  apply BitVec.eq_of_toNat_eq
  simp only [append_toNat_eq, BitVec.extractLsb'_toNat, Nat.mul_add, Nat.shiftRight_add]
  simp only [Nat.shiftRight_eq_div_pow]
  omega

/-- The four bytes of a word are the word. -/
theorem bytes_append_word (v : Word) :
    (v.extractLsb' 24 8 ++ v.extractLsb' 16 8 ++ v.extractLsb' 8 8 ++ v.extractLsb' 0 8 : BitVec 32) = v := by
  apply BitVec.eq_of_toNat_eq
  simp only [append_toNat_eq, BitVec.extractLsb'_toNat, Nat.shiftRight_eq_div_pow]
  have := v.isLt
  omega

end Sys2Proof
end

