-- ==== Sys2Proof/Laws/Decode.lean ====
section
/-! SUPPORT. What an accepted word looks like, and the number of an encoded one. -/

namespace Sys2Proof

/-- The rows of an accepted word, by its fields. -/
theorem decode_ok {w : Cw} {d : Decoded} (h : decode w = .ok d) :
    ∃ m, decodeMau w = .ok m ∧ (Cw.brOp w = 0#4 ∨ m.isMemNone = true) ∧
      d = { alu := decodeAlu (Cw.aluOp w) (Cw.operands w), bru := decodeBru (Cw.brOp w), mau := m,
            rs2Idx := Cw.rs2Idx w, rdIdx := Cw.rdIdx w } := by
  unfold decode at h
  split at h
  · simp at h
  · split at h
    · exact ⟨_, ‹_›, ‹_›, by simpa using h.symm⟩
    · simp at h

/-- The MAU row of an accepted word, by its class flags. -/
theorem decodeMau_ok {w : Cw} {m : Instr} (h : decodeMau w = .ok m) :
    (Cw.isLoad w = true ∧ Cw.isStore w = false ∧ Cw.isCsr w = false ∧ m = decodeLoad (Cw.fsel w)) ∨
    (Cw.isLoad w = false ∧ Cw.isStore w = true ∧ Cw.isCsr w = false ∧ m = decodeStore (Cw.fsel w)) ∨
    (Cw.isLoad w = false ∧ Cw.isStore w = false ∧ Cw.isCsr w = true ∧
      m = .memCsr (Cw.fsel w) (Cw.csrAddr w)) ∨
    (Cw.isLoad w = false ∧ Cw.isStore w = false ∧ Cw.isCsr w = false ∧ m = .memNone (Cw.fsel w)) := by
  unfold decodeMau at h
  split at h <;> simp_all

/-- The ALU decoder inverts the tag, keeps the operand fields and answers ALU rows. -/
theorem decodeAlu_spec (t : BitVec 4) (o : AluOperands) :
    (decodeAlu t o).aluTag = t.toNat ∧ (decodeAlu t o).operands = o ∧ (decodeAlu t o).group = .alu := by
  have h : ∃ k < 16, t = BitVec.ofNat 4 k := ⟨t.toNat, t.isLt, by simp⟩
  obtain ⟨k, hk, rfl⟩ := h
  interval_cases k <;> exact ⟨rfl, rfl, rfl⟩

/-- The BRU decoder inverts the tag, answers BRU rows, and `NONE` for tag 0 only. -/
theorem decodeBru_spec (t : BitVec 4) :
    (decodeBru t).brTag = t.toNat ∧ (decodeBru t).group = .bru ∧ (decodeBru t = .brNone ↔ t = 0#4) := by
  revert t; decide

/-- The load decoder: bits 13:8 are the load flag and the selector. -/
theorem decodeLoad_spec (t : BitVec 3) :
    (decodeLoad t).memBits = 8 + t.toNat ∧ (decodeLoad t).group = .mau ∧
      (decodeLoad t).isMemNone = false ∧ ∀ i, (decodeLoad t).carriedBy i = true := by
  have h : ∃ k < 8, t = BitVec.ofNat 3 k := ⟨t.toNat, t.isLt, by simp⟩
  obtain ⟨k, hk, rfl⟩ := h
  interval_cases k <;> exact ⟨rfl, rfl, rfl, fun _ => rfl⟩

/-- The store decoder: bits 13:8 are the store flag and the selector. -/
theorem decodeStore_spec (t : BitVec 3) :
    (decodeStore t).memBits = 16 + t.toNat ∧ (decodeStore t).group = .mau ∧
      (decodeStore t).isMemNone = false ∧ ∀ i, (decodeStore t).carriedBy i = true := by
  have h : ∃ k < 8, t = BitVec.ofNat 3 k := ⟨t.toNat, t.isLt, by simp⟩
  obtain ⟨k, hk, rfl⟩ := h
  interval_cases k <;> exact ⟨rfl, rfl, rfl, fun _ => rfl⟩

/-- A bit of known value, as a digit. -/
theorem digit_of_getLsbD (w : Cw) (k : Nat) (b : Bool) (h : w.getLsbD k = b) :
    w.toNat / 2 ^ k % 2 = b.toNat := by
  rw [getLsbD_eq_digit] at h
  cases b <;> simp_all

/-- The MAU row of an accepted word, by its bits. -/
theorem decodeMau_spec {w : Cw} {m : Instr} (h : decodeMau w = .ok m) :
    m.memBits = w.toNat / 256 % 64 ∧ m.group = .mau ∧ m.carriedBy (Cw.imm w) = true ∧
      (m.isMemNone = true ↔ w.toNat / 2048 % 8 = 0) := by
  have hf : (Cw.fsel w).toNat = w.toNat / 256 % 8 := by rw [Cw.fsel, extractLsb'_toNat_eq]; omega
  rcases decodeMau_ok h with ⟨a, b, c, rfl⟩ | ⟨a, b, c, rfl⟩ | ⟨a, b, c, rfl⟩ | ⟨a, b, c, rfl⟩ <;>
    have a := digit_of_getLsbD _ _ _ a <;> have b := digit_of_getLsbD _ _ _ b <;>
    have c := digit_of_getLsbD _ _ _ c <;> simp only [Bool.toNat_true, Bool.toNat_false] at a b c
  · obtain ⟨h1, h2, h3, h4⟩ := decodeLoad_spec (Cw.fsel w)
    exact ⟨by omega, h2, h4 _, by rw [h3]; simp; omega⟩
  · obtain ⟨h1, h2, h3, h4⟩ := decodeStore_spec (Cw.fsel w)
    exact ⟨by omega, h2, h4 _, by rw [h3]; simp; omega⟩
  · exact ⟨by simp only [Instr.memBits]; omega, rfl, by simp [Instr.carriedBy, Cw.csrAddr],
      by simp [Instr.isMemNone]; omega⟩
  · exact ⟨by simp only [Instr.memBits]; omega, rfl, rfl, by simp [Instr.isMemNone]; omega⟩

/-- The groups of an accepted word's rows, and the exclusion of R90. -/
theorem decode_groups {w : Cw} {d : Decoded} (h : decode w = .ok d) :
    d.alu.group = .alu ∧ d.bru.group = .bru ∧ d.mau.group = .mau ∧
      (d.bru = .brNone ∨ d.mau.isMemNone = true) := by
  obtain ⟨m, hm, hc, rfl⟩ := decode_ok h
  exact ⟨(decodeAlu_spec _ _).2.2, (decodeBru_spec _).2.1, (decodeMau_spec hm).2.1,
    by simpa [(decodeBru_spec _).2.2] using hc⟩

/-- The CSR row is the MAU row of the CSR-class words, with the address the word carries. -/
theorem decode_memCsr {w : Cw} {d : Decoded} (h : decode w = .ok d) (fsel : BitVec 3) (a : CsrAddr) :
    d.mau = .memCsr fsel a ↔ Cw.isCsr w = true ∧ fsel = Cw.fsel w ∧ a = Cw.csrAddr w := by
  obtain ⟨m, hm, -, rfl⟩ := decode_ok h
  have hb := (decodeMau_spec hm).1
  have hc := digit_of_getLsbD w 13 _ rfl
  constructor
  · rintro rfl
    simp only [Instr.memBits] at hb
    have := fsel.isLt
    rcases decodeMau_ok hm with ⟨_, _, c, e⟩ | ⟨_, _, c, e⟩ | ⟨_, _, c, e⟩ | ⟨_, _, c, e⟩ <;>
      simp only [Cw.isCsr] at c <;> simp only [c, Bool.toNat_true, Bool.toNat_false] at hc
    · omega
    · omega
    · simp only [Instr.memCsr.injEq] at e
      exact ⟨c, e⟩
    · omega
  · rintro ⟨h1, rfl, rfl⟩
    rcases decodeMau_ok hm with ⟨_, _, c, e⟩ | ⟨_, _, c, e⟩ | ⟨_, _, c, e⟩ | ⟨_, _, c, e⟩ <;> simp_all

theorem aluTag_le (i : Instr) : i.aluTag ≤ 15 := by cases i <;> simp [Instr.aluTag]

theorem brTag_le (i : Instr) : i.brTag ≤ 15 := by cases i <;> simp [Instr.brTag]

theorem memBits_le (i : Instr) : i.memBits ≤ 63 := by
  cases i <;> simp [Instr.memBits]
  · rename_i f a; have := f.isLt; omega
  · rename_i f; have := f.isLt; omega

theorem flagBits_le (o : AluOperands) : o.flagBits ≤ 15 := by
  simp only [AluOperands.flagBits]
  have := Bool.toNat_le o.s1Pc
  have := Bool.toNat_le o.s1Idx
  have := Bool.toNat_le o.s1Inv
  have := Bool.toNat_le o.s2Imm
  omega

/-- The number of an encoded word: the sum of R80, with nothing lost. -/
theorem encode_toNat (d : Decoded) :
    (encode d).toNat = d.alu.aluTag + d.bru.brTag * 2 ^ 4 + d.mau.memBits * 2 ^ 8
      + d.alu.operands.flagBits * 2 ^ 14 + d.alu.operands.rs1Idx.toNat * 2 ^ 18
      + d.rs2Idx.toNat * 2 ^ 23 + d.rdIdx.toNat * 2 ^ 28 + d.alu.operands.imm.toNat * 2 ^ 33 := by
  have h1 := aluTag_le d.alu
  have h2 := brTag_le d.bru
  have h3 := memBits_le d.mau
  have h4 := flagBits_le d.alu.operands
  have h5 := d.alu.operands.rs1Idx.isLt
  have h6 := d.rs2Idx.isLt
  have h7 := d.rdIdx.isLt
  have h8 := d.alu.operands.imm.isLt
  unfold encode
  rw [BitVec.toNat_ofNat, Nat.mod_eq_of_lt]
  omega

end Sys2Proof
end

