-- ==== Sys2Proof/Laws/State.lean ====
section
/-! SUPPORT. One lemma per field per update of State. -/

namespace Sys2Proof.Machine

variable (s : State)

@[simp] theorem setResult_pc (v : Word) : (setResult s v).pc = s.pc := rfl
@[simp] theorem setResult_ifid (v : Word) : (setResult s v).ifid = s.ifid := rfl
@[simp] theorem setResult_fetchStalled (v : Word) : (setResult s v).fetchStalled = s.fetchStalled := rfl
@[simp] theorem setResult_mem (v : Word) : (setResult s v).mem = s.mem := rfl
@[simp] theorem setResult_console (v : Word) : (setResult s v).console = s.console := rfl
@[simp] theorem setResult_fault (v : Word) : (setResult s v).fault = s.fault := rfl
@[simp] theorem setResult_idex (v : Word) : (setResult s v).idex = s.idex := rfl
@[simp] theorem setResult_rs1Value (v : Word) : (setResult s v).rs1Value = s.rs1Value := rfl
@[simp] theorem setResult_rs2Value (v : Word) : (setResult s v).rs2Value = s.rs2Value := rfl
@[simp] theorem setResult_cycles (v : Word) : (setResult s v).cycles = s.cycles := rfl
@[simp] theorem setResult_instrs (v : Word) : (setResult s v).instrs = s.instrs := rfl
@[simp] theorem setResult_env (v : Word) : (setResult s v).env = s.env := rfl
@[simp] theorem setResult_v2 (v : Word) : (setResult s v).v2 = s.v2 := rfl
@[simp] theorem setResult_result (v : Word) : (setResult s v).result = v := rfl
@[simp] theorem setResult_redirect (v : Word) : (setResult s v).redirect = s.redirect := rfl
@[simp] theorem setResult_memReq (v : Word) : (setResult s v).memReq = s.memReq := rfl
@[simp] theorem setResult_cout (v : Word) : (setResult s v).cout = s.cout := rfl
@[simp] theorem setResult_cfg (v : Word) : (setResult s v).cfg = s.cfg := rfl

@[simp] theorem recordFault_pc (f : InternalFault) : (recordFault s f).pc = s.pc := rfl
@[simp] theorem recordFault_ifid (f : InternalFault) : (recordFault s f).ifid = s.ifid := rfl
@[simp] theorem recordFault_fetchStalled (f : InternalFault) : (recordFault s f).fetchStalled = s.fetchStalled := rfl
@[simp] theorem recordFault_mem (f : InternalFault) : (recordFault s f).mem = s.mem := rfl
@[simp] theorem recordFault_console (f : InternalFault) : (recordFault s f).console = s.console := rfl
@[simp] theorem recordFault_fault (f : InternalFault) : (recordFault s f).fault = some f := rfl
@[simp] theorem recordFault_idex (f : InternalFault) : (recordFault s f).idex = s.idex := rfl
@[simp] theorem recordFault_rs1Value (f : InternalFault) : (recordFault s f).rs1Value = s.rs1Value := rfl
@[simp] theorem recordFault_rs2Value (f : InternalFault) : (recordFault s f).rs2Value = s.rs2Value := rfl
@[simp] theorem recordFault_cycles (f : InternalFault) : (recordFault s f).cycles = s.cycles := rfl
@[simp] theorem recordFault_instrs (f : InternalFault) : (recordFault s f).instrs = s.instrs := rfl
@[simp] theorem recordFault_env (f : InternalFault) : (recordFault s f).env = s.env := rfl
@[simp] theorem recordFault_v2 (f : InternalFault) : (recordFault s f).v2 = s.v2 := rfl
@[simp] theorem recordFault_result (f : InternalFault) : (recordFault s f).result = s.result := rfl
@[simp] theorem recordFault_redirect (f : InternalFault) : (recordFault s f).redirect = s.redirect := rfl
@[simp] theorem recordFault_memReq (f : InternalFault) : (recordFault s f).memReq = s.memReq := rfl
@[simp] theorem recordFault_cout (f : InternalFault) : (recordFault s f).cout = s.cout := rfl
@[simp] theorem recordFault_cfg (f : InternalFault) : (recordFault s f).cfg = s.cfg := rfl

@[simp] theorem correct_pc (x : Word) : (correct s x).pc = x := rfl
@[simp] theorem correct_ifid (x : Word) : (correct s x).ifid = none := rfl
@[simp] theorem correct_fetchStalled (x : Word) : (correct s x).fetchStalled = false := rfl
@[simp] theorem correct_mem (x : Word) : (correct s x).mem = s.mem := rfl
@[simp] theorem correct_console (x : Word) : (correct s x).console = s.console := rfl
@[simp] theorem correct_fault (x : Word) : (correct s x).fault = s.fault := rfl
@[simp] theorem correct_idex (x : Word) : (correct s x).idex = s.idex := rfl
@[simp] theorem correct_rs1Value (x : Word) : (correct s x).rs1Value = s.rs1Value := rfl
@[simp] theorem correct_rs2Value (x : Word) : (correct s x).rs2Value = s.rs2Value := rfl
@[simp] theorem correct_cycles (x : Word) : (correct s x).cycles = s.cycles := rfl
@[simp] theorem correct_instrs (x : Word) : (correct s x).instrs = s.instrs := rfl
@[simp] theorem correct_env (x : Word) : (correct s x).env = s.env := rfl
@[simp] theorem correct_v2 (x : Word) : (correct s x).v2 = s.v2 := rfl
@[simp] theorem correct_result (x : Word) : (correct s x).result = s.result := rfl
@[simp] theorem correct_redirect (x : Word) : (correct s x).redirect = some x := rfl
@[simp] theorem correct_memReq (x : Word) : (correct s x).memReq = s.memReq := rfl
@[simp] theorem correct_cout (x : Word) : (correct s x).cout = s.cout := rfl
@[simp] theorem correct_cfg (x : Word) : (correct s x).cfg = s.cfg := rfl

@[simp] theorem noteRead_pc (a : Word) (w : Width) (v : Word) : (noteRead s a w v).pc = s.pc := rfl
@[simp] theorem noteRead_ifid (a : Word) (w : Width) (v : Word) : (noteRead s a w v).ifid = s.ifid := rfl
@[simp] theorem noteRead_fetchStalled (a : Word) (w : Width) (v : Word) : (noteRead s a w v).fetchStalled = s.fetchStalled := rfl
@[simp] theorem noteRead_mem (a : Word) (w : Width) (v : Word) : (noteRead s a w v).mem = s.mem := rfl
@[simp] theorem noteRead_console (a : Word) (w : Width) (v : Word) : (noteRead s a w v).console = s.console := rfl
@[simp] theorem noteRead_fault (a : Word) (w : Width) (v : Word) : (noteRead s a w v).fault = s.fault := rfl
@[simp] theorem noteRead_idex (a : Word) (w : Width) (v : Word) : (noteRead s a w v).idex = s.idex := rfl
@[simp] theorem noteRead_rs1Value (a : Word) (w : Width) (v : Word) : (noteRead s a w v).rs1Value = s.rs1Value := rfl
@[simp] theorem noteRead_rs2Value (a : Word) (w : Width) (v : Word) : (noteRead s a w v).rs2Value = s.rs2Value := rfl
@[simp] theorem noteRead_cycles (a : Word) (w : Width) (v : Word) : (noteRead s a w v).cycles = s.cycles := rfl
@[simp] theorem noteRead_instrs (a : Word) (w : Width) (v : Word) : (noteRead s a w v).instrs = s.instrs := rfl
@[simp] theorem noteRead_env (a : Word) (w : Width) (v : Word) : (noteRead s a w v).env = s.env := rfl
@[simp] theorem noteRead_v2 (a : Word) (w : Width) (v : Word) : (noteRead s a w v).v2 = s.v2 := rfl
@[simp] theorem noteRead_result (a : Word) (w : Width) (v : Word) : (noteRead s a w v).result = s.result := rfl
@[simp] theorem noteRead_redirect (a : Word) (w : Width) (v : Word) : (noteRead s a w v).redirect = s.redirect := rfl
@[simp] theorem noteRead_memReq (a : Word) (w : Width) (v : Word) : (noteRead s a w v).memReq = some (.read a w v) := rfl
@[simp] theorem noteRead_cout (a : Word) (w : Width) (v : Word) : (noteRead s a w v).cout = s.cout := rfl
@[simp] theorem noteRead_cfg (a : Word) (w : Width) (v : Word) : (noteRead s a w v).cfg = s.cfg := rfl

@[simp] theorem memWrite_pc (a : Word) (w : Width) (v : Word) : (memWrite s a w v).pc = s.pc := rfl
@[simp] theorem memWrite_ifid (a : Word) (w : Width) (v : Word) : (memWrite s a w v).ifid = s.ifid := rfl
@[simp] theorem memWrite_fetchStalled (a : Word) (w : Width) (v : Word) : (memWrite s a w v).fetchStalled = s.fetchStalled := rfl
@[simp] theorem memWrite_mem (a : Word) (w : Width) (v : Word) : (memWrite s a w v).mem = Memory.writeBytes s.mem a (littleEndian w.bytes v) := rfl
@[simp] theorem memWrite_console (a : Word) (w : Width) (v : Word) : (memWrite s a w v).console = s.console := rfl
@[simp] theorem memWrite_fault (a : Word) (w : Width) (v : Word) : (memWrite s a w v).fault = s.fault := rfl
@[simp] theorem memWrite_idex (a : Word) (w : Width) (v : Word) : (memWrite s a w v).idex = s.idex := rfl
@[simp] theorem memWrite_rs1Value (a : Word) (w : Width) (v : Word) : (memWrite s a w v).rs1Value = s.rs1Value := rfl
@[simp] theorem memWrite_rs2Value (a : Word) (w : Width) (v : Word) : (memWrite s a w v).rs2Value = s.rs2Value := rfl
@[simp] theorem memWrite_cycles (a : Word) (w : Width) (v : Word) : (memWrite s a w v).cycles = s.cycles := rfl
@[simp] theorem memWrite_instrs (a : Word) (w : Width) (v : Word) : (memWrite s a w v).instrs = s.instrs := rfl
@[simp] theorem memWrite_env (a : Word) (w : Width) (v : Word) : (memWrite s a w v).env = s.env := rfl
@[simp] theorem memWrite_v2 (a : Word) (w : Width) (v : Word) : (memWrite s a w v).v2 = s.v2 := rfl
@[simp] theorem memWrite_result (a : Word) (w : Width) (v : Word) : (memWrite s a w v).result = s.result := rfl
@[simp] theorem memWrite_redirect (a : Word) (w : Width) (v : Word) : (memWrite s a w v).redirect = s.redirect := rfl
@[simp] theorem memWrite_memReq (a : Word) (w : Width) (v : Word) : (memWrite s a w v).memReq = some (.write a w (zeroExtendFrom w v)) := rfl
@[simp] theorem memWrite_cout (a : Word) (w : Width) (v : Word) : (memWrite s a w v).cout = s.cout := rfl
@[simp] theorem memWrite_cfg (a : Word) (w : Width) (v : Word) : (memWrite s a w v).cfg = s.cfg := rfl

@[simp] theorem consoleWrite_pc (w : Width) (v : Word) : (consoleWrite s w v).pc = s.pc := rfl
@[simp] theorem consoleWrite_ifid (w : Width) (v : Word) : (consoleWrite s w v).ifid = s.ifid := rfl
@[simp] theorem consoleWrite_fetchStalled (w : Width) (v : Word) : (consoleWrite s w v).fetchStalled = s.fetchStalled := rfl
@[simp] theorem consoleWrite_mem (w : Width) (v : Word) : (consoleWrite s w v).mem = s.mem := rfl
@[simp] theorem consoleWrite_console (w : Width) (v : Word) : (consoleWrite s w v).console = s.console ++ littleEndian w.bytes v := rfl
@[simp] theorem consoleWrite_fault (w : Width) (v : Word) : (consoleWrite s w v).fault = s.fault := rfl
@[simp] theorem consoleWrite_idex (w : Width) (v : Word) : (consoleWrite s w v).idex = s.idex := rfl
@[simp] theorem consoleWrite_rs1Value (w : Width) (v : Word) : (consoleWrite s w v).rs1Value = s.rs1Value := rfl
@[simp] theorem consoleWrite_rs2Value (w : Width) (v : Word) : (consoleWrite s w v).rs2Value = s.rs2Value := rfl
@[simp] theorem consoleWrite_cycles (w : Width) (v : Word) : (consoleWrite s w v).cycles = s.cycles := rfl
@[simp] theorem consoleWrite_instrs (w : Width) (v : Word) : (consoleWrite s w v).instrs = s.instrs := rfl
@[simp] theorem consoleWrite_env (w : Width) (v : Word) : (consoleWrite s w v).env = s.env := rfl
@[simp] theorem consoleWrite_v2 (w : Width) (v : Word) : (consoleWrite s w v).v2 = s.v2 := rfl
@[simp] theorem consoleWrite_result (w : Width) (v : Word) : (consoleWrite s w v).result = s.result := rfl
@[simp] theorem consoleWrite_redirect (w : Width) (v : Word) : (consoleWrite s w v).redirect = s.redirect := rfl
@[simp] theorem consoleWrite_memReq (w : Width) (v : Word) : (consoleWrite s w v).memReq = s.memReq := rfl
@[simp] theorem consoleWrite_cout (w : Width) (v : Word) : (consoleWrite s w v).cout = some { width := w, data := zeroExtendFrom w v } := rfl
@[simp] theorem consoleWrite_cfg (w : Width) (v : Word) : (consoleWrite s w v).cfg = s.cfg := rfl

@[simp] theorem beginStep_pc (c : Cw) : (beginStep s c).pc = s.pc := rfl
@[simp] theorem beginStep_ifid (c : Cw) : (beginStep s c).ifid = s.ifid := rfl
@[simp] theorem beginStep_fetchStalled (c : Cw) : (beginStep s c).fetchStalled = s.fetchStalled := rfl
@[simp] theorem beginStep_mem (c : Cw) : (beginStep s c).mem = s.mem := rfl
@[simp] theorem beginStep_console (c : Cw) : (beginStep s c).console = s.console := rfl
@[simp] theorem beginStep_fault (c : Cw) : (beginStep s c).fault = s.fault := rfl
@[simp] theorem beginStep_idex (c : Cw) : (beginStep s c).idex = s.idex := rfl
@[simp] theorem beginStep_rs1Value (c : Cw) : (beginStep s c).rs1Value = s.rs1Value := rfl
@[simp] theorem beginStep_rs2Value (c : Cw) : (beginStep s c).rs2Value = s.rs2Value := rfl
@[simp] theorem beginStep_cycles (c : Cw) : (beginStep s c).cycles = s.cycles := rfl
@[simp] theorem beginStep_instrs (c : Cw) : (beginStep s c).instrs = s.instrs := rfl
@[simp] theorem beginStep_env (c : Cw) : (beginStep s c).env = s.env := rfl
@[simp] theorem beginStep_v2 (c : Cw) : (beginStep s c).v2 = secondValue s c := rfl
@[simp] theorem beginStep_result (c : Cw) : (beginStep s c).result = s.result := rfl
@[simp] theorem beginStep_redirect (c : Cw) : (beginStep s c).redirect = none := rfl
@[simp] theorem beginStep_memReq (c : Cw) : (beginStep s c).memReq = none := rfl
@[simp] theorem beginStep_cout (c : Cw) : (beginStep s c).cout = none := rfl
@[simp] theorem beginStep_cfg (c : Cw) : (beginStep s c).cfg = s.cfg := rfl

@[simp] theorem applyFront_mem (u : Option FrontEnd) : (applyFront s u).mem = s.mem := by
  cases u <;> rfl
@[simp] theorem applyFront_console (u : Option FrontEnd) : (applyFront s u).console = s.console := by
  cases u <;> rfl
@[simp] theorem applyFront_fault (u : Option FrontEnd) : (applyFront s u).fault = s.fault := by
  cases u <;> rfl
@[simp] theorem applyFront_idex (u : Option FrontEnd) : (applyFront s u).idex = s.idex := by
  cases u <;> rfl
@[simp] theorem applyFront_rs1Value (u : Option FrontEnd) : (applyFront s u).rs1Value = s.rs1Value := by
  cases u <;> rfl
@[simp] theorem applyFront_rs2Value (u : Option FrontEnd) : (applyFront s u).rs2Value = s.rs2Value := by
  cases u <;> rfl
@[simp] theorem applyFront_cycles (u : Option FrontEnd) : (applyFront s u).cycles = s.cycles := by
  cases u <;> rfl
@[simp] theorem applyFront_instrs (u : Option FrontEnd) : (applyFront s u).instrs = s.instrs := by
  cases u <;> rfl
@[simp] theorem applyFront_env (u : Option FrontEnd) : (applyFront s u).env = s.env := by
  cases u <;> rfl
@[simp] theorem applyFront_v2 (u : Option FrontEnd) : (applyFront s u).v2 = s.v2 := by
  cases u <;> rfl
@[simp] theorem applyFront_result (u : Option FrontEnd) : (applyFront s u).result = s.result := by
  cases u <;> rfl
@[simp] theorem applyFront_redirect (u : Option FrontEnd) : (applyFront s u).redirect = s.redirect := by
  cases u <;> rfl
@[simp] theorem applyFront_memReq (u : Option FrontEnd) : (applyFront s u).memReq = s.memReq := by
  cases u <;> rfl
@[simp] theorem applyFront_cout (u : Option FrontEnd) : (applyFront s u).cout = s.cout := by
  cases u <;> rfl
@[simp] theorem applyFront_cfg (u : Option FrontEnd) : (applyFront s u).cfg = s.cfg := by
  cases u <;> rfl

@[simp] theorem nextCycle_mem : (nextCycle s).mem = s.mem := by
  unfold nextCycle; split <;> simp
@[simp] theorem nextCycle_console : (nextCycle s).console = s.console := by
  unfold nextCycle; split <;> simp
@[simp] theorem nextCycle_fault : (nextCycle s).fault = s.fault := by
  unfold nextCycle; split <;> simp
@[simp] theorem nextCycle_v2 : (nextCycle s).v2 = s.v2 := by
  unfold nextCycle; split <;> simp
@[simp] theorem nextCycle_result : (nextCycle s).result = s.result := by
  unfold nextCycle; split <;> simp
@[simp] theorem nextCycle_redirect : (nextCycle s).redirect = s.redirect := by
  unfold nextCycle; split <;> simp
@[simp] theorem nextCycle_memReq : (nextCycle s).memReq = s.memReq := by
  unfold nextCycle; split <;> simp
@[simp] theorem nextCycle_cout : (nextCycle s).cout = s.cout := by
  unfold nextCycle; split <;> simp
@[simp] theorem nextCycle_cfg : (nextCycle s).cfg = s.cfg := by
  unfold nextCycle; split <;> simp

end Sys2Proof.Machine
end

