-- ==== Sys2Proof/Laws/Memory.lean ====
section
/-! SUPPORT. Reading after writing, and the canonical form kept by every memory operation. -/

namespace Sys2Proof

theorem Memory.read_write_same (m : List Host.Cell) (a : Nat) (v : Byte) :
    Memory.read (Memory.write m a v) a = some v := by
  induction m with
  | nil => simp [Memory.write, Memory.read]
  | cons c rest ih =>
    obtain ⟨k, b⟩ := c
    simp only [Memory.write]
    split
    · simp [Memory.read]
    · split
      · simp [Memory.read]
      · rw [Memory.read, if_neg (by omega), ih]

theorem Memory.read_write_other (m : List Host.Cell) {a x : Nat} (v : Byte) (h : x ≠ a) :
    Memory.read (Memory.write m a v) x = Memory.read m x := by
  induction m with
  | nil => simp [Memory.write, Memory.read, Ne.symm h]
  | cons c rest ih =>
    obtain ⟨k, b⟩ := c
    simp only [Memory.write]
    split
    · simp [Memory.read, Ne.symm h]
    · split
      · subst_vars; simp [Memory.read, Ne.symm h]
      · simp only [Memory.read, ih]

theorem Memory.wfFrom_write (m : List Host.Cell) {lo a : Nat} (v : Byte) (hm : Memory.wfFrom lo m = true)
    (hlo : lo ≤ a) (ha : a < 2 ^ 32) : Memory.wfFrom lo (Memory.write m a v) = true := by
  induction m generalizing lo with
  | nil => simp [Memory.write, Memory.wfFrom, hlo]; omega
  | cons c rest ih =>
    obtain ⟨k, b⟩ := c
    simp only [Memory.wfFrom, Bool.and_eq_true, decide_eq_true_eq] at hm
    simp only [Memory.write]
    split
    · simp only [Memory.wfFrom, Bool.and_eq_true, decide_eq_true_eq]
      exact ⟨⟨hlo, ha⟩, ⟨by omega, hm.1.2⟩, hm.2⟩
    · split
      · subst_vars; simpa [Memory.wfFrom] using hm
      · simp only [Memory.wfFrom, Bool.and_eq_true, decide_eq_true_eq]
        exact ⟨hm.1, ih hm.2 (by omega)⟩

theorem Memory.wf_write {m : List Host.Cell} (hm : Memory.wf m = true) (a : Word) (v : Byte) :
    Memory.wf (Memory.write m a.toNat v) = true :=
  Memory.wfFrom_write m v hm (Nat.zero_le _) a.isLt

theorem Memory.wf_writeBytes {m : List Host.Cell} (hm : Memory.wf m = true) (a : Word) (bs : List Byte) :
    Memory.wf (Memory.writeBytes m a bs) = true := by
  induction bs generalizing m a with
  | nil => exact hm
  | cons b rest ih => exact ih (Memory.wf_write hm a b) _

/-- A byte at none of the written addresses is left alone. -/
theorem Memory.read_writeBytes_other (m : List Host.Cell) (a x : Word) (bs : List Byte)
    (h : ∀ k < bs.length, x ≠ a + BitVec.ofNat 32 k) :
    Memory.read (Memory.writeBytes m a bs) x.toNat = Memory.read m x.toNat := by
  induction bs generalizing m a with
  | nil => rfl
  | cons b rest ih =>
    have h0 := h 0 (by simp)
    rw [Memory.writeBytes, ih, Memory.read_write_other]
    · intro e
      exact h0 (by simpa using BitVec.eq_of_toNat_eq e)
    · intro k hk e
      refine h (k + 1) (by simpa using hk) ?_
      rw [e, BitVec.add_assoc]
      congr 1
      apply BitVec.eq_of_toNat_eq
      simp [BitVec.toNat_add, Nat.add_comm]

/-- The byte written at place `k` is read there. -/
theorem Memory.read_writeBytes_at (m : List Host.Cell) (a : Word) (bs : List Byte)
    (hn : bs.length ≤ 2 ^ 32) (k : Nat) (hk : k < bs.length) :
    Memory.read (Memory.writeBytes m a bs) (a + BitVec.ofNat 32 k).toNat = some bs[k] := by
  induction bs generalizing m a k with
  | nil => simp at hk
  | cons b rest ih =>
    simp only [List.length_cons] at hn hk
    cases k with
    | zero =>
      rw [Memory.writeBytes, Memory.read_writeBytes_other]
      · simpa using Memory.read_write_same m a.toNat b
      · intro j hj e
        have := congrArg BitVec.toNat e
        simp [BitVec.toNat_add] at this
        have ha := a.isLt
        omega
    | succ j =>
      have e : a + BitVec.ofNat 32 (j + 1) = (a + 1#32) + BitVec.ofNat 32 j := by
        rw [BitVec.add_assoc]
        congr 1
        apply BitVec.eq_of_toNat_eq
        simp [BitVec.toNat_add, Nat.add_comm]
      rw [e, Memory.writeBytes]
      simpa using ih (Memory.write m a.toNat b) (a + 1#32) (by omega) j (by omega)

@[simp] theorem littleEndian_length (n : Nat) (v : Word) : (littleEndian n v).length = n := by
  induction n generalizing v with
  | zero => rfl
  | succ k ih => simp [littleEndian, ih]

theorem Width.bytes_le (w : Width) : w.bytes ≤ 4 := by cases w <;> simp [Width.bytes]

/-! ## Bytes of a value -/

theorem setWidth_eq_extract (v : Word) : v.setWidth 8 = v.extractLsb' 0 8 := by
  apply BitVec.eq_of_toNat_eq; simp [BitVec.extractLsb'_toNat]

theorem littleEndian_byte (v : Word) : littleEndian 1 v = [v.extractLsb' 0 8] := by
  simp [littleEndian, setWidth_eq_extract]

theorem littleEndian_half (v : Word) :
    littleEndian 2 v = [v.extractLsb' 0 8, v.extractLsb' 8 8] := by
  simp only [littleEndian, setWidth_eq_extract]
  congr 2

theorem littleEndian_word (v : Word) :
    littleEndian 4 v
      = [v.extractLsb' 0 8, v.extractLsb' 8 8, v.extractLsb' 16 8, v.extractLsb' 24 8] := by
  simp only [littleEndian, setWidth_eq_extract]
  refine List.cons_eq_cons.2 ⟨rfl, List.cons_eq_cons.2 ⟨?_, List.cons_eq_cons.2 ⟨?_,
    List.cons_eq_cons.2 ⟨?_, rfl⟩⟩⟩⟩
  all_goals (apply BitVec.eq_of_toNat_eq; simp [BitVec.extractLsb'_toNat])

/-- Byte `k` of a value, lowest first. -/
theorem littleEndian_getElem (w : Width) (v : Word) (k : Nat) (hk : k < w.bytes) :
    (littleEndian w.bytes v)[k]'(by simpa using hk) = v.extractLsb' (8 * k) 8 := by
  cases w <;> simp only [Width.bytes] at hk ⊢
  · interval_cases k; simp [littleEndian_byte]
  · interval_cases k <;> simp [littleEndian_half]
  · interval_cases k <;> simp [littleEndian_word]

theorem assemble_cons_toNat (b : Byte) (rest : List Byte) :
    (assemble (b :: rest)).toNat = b.toNat + 256 * (assemble rest).toNat % 2 ^ 32 := by
  rw [assemble, BitVec.toNat_or, BitVec.toNat_shiftLeft, Nat.shiftLeft_eq, BitVec.toNat_setWidth]
  have h1 := b.isLt
  have h2 : (assemble rest).toNat * 2 ^ 8 % 2 ^ 32 = 2 ^ 8 * ((assemble rest).toNat % 2 ^ 24) := by omega
  rw [h2, Nat.mod_eq_of_lt (by omega), Nat.or_comm, ← Nat.two_pow_add_eq_or_of_lt h1]
  omega

theorem assemble_nil_toNat : (assemble []).toNat = 0 := rfl

theorem assemble_byte (a : Byte) : assemble [a] = a.setWidth 32 := by simp [assemble]

theorem assemble_half (a b : Byte) : assemble [a, b] = (b ++ a).setWidth 32 := by
  apply BitVec.eq_of_toNat_eq
  simp only [assemble_cons_toNat, assemble_nil_toNat, BitVec.toNat_setWidth, append_toNat_eq]
  have := a.isLt; have := b.isLt; omega

theorem assemble_word (a b c d : Byte) : assemble [a, b, c, d] = d ++ c ++ b ++ a := by
  apply BitVec.eq_of_toNat_eq
  simp only [assemble_cons_toNat, assemble_nil_toNat, append_toNat_eq]
  have := a.isLt; have := b.isLt; have := c.isLt; have := d.isLt; omega

namespace Machine

/-- A store leaves every byte outside its own alone. -/
theorem memWrite_read_other (s : State) (a x : Word) (w : Width) (v : Word)
    (h : ∀ k < w.bytes, x ≠ a + BitVec.ofNat 32 k) :
    Memory.read (memWrite s a w v).mem x.toNat = Memory.read s.mem x.toNat := by
  rw [memWrite_mem]
  exact Memory.read_writeBytes_other _ _ _ _ (by simpa using h)

/-- A store leaves memory canonical. -/
theorem memWrite_wf {s : State} (h : Memory.wf s.mem = true) (a : Word) (w : Width) (v : Word) :
    Memory.wf (memWrite s a w v).mem = true :=
  Memory.wf_writeBytes h _ _

theorem readByte_of_read {s : State} {a : Word} {b : Byte} (h : Memory.read s.mem a.toNat = some b) :
    readByte s a = b := by
  simp [readByte, h]

theorem readByte_congr {s t : State} {a : Word}
    (h : Memory.read t.mem a.toNat = Memory.read s.mem a.toNat) : readByte t a = readByte s a := by
  simp [readByte, h]

/-- The byte a store leaves at place `k`. -/
theorem memWrite_read_at (s : State) (a : Word) (w : Width) (v : Word) (k : Nat) (hk : k < w.bytes) :
    Memory.read (memWrite s a w v).mem (a + BitVec.ofNat 32 k).toNat = some (v.extractLsb' (8 * k) 8) := by
  rw [memWrite_mem, Memory.read_writeBytes_at _ _ _ (by have := Width.bytes_le w; simp; omega) k
    (by simpa using hk), littleEndian_getElem w v k hk]

theorem memRead_byte (s : State) (a : Word) : memRead s a .byte = (readByte s a).setWidth 32 := by
  simp [memRead, readBytes, Width.bytes, assemble_byte]

theorem memRead_half (s : State) (a : Word) :
    memRead s a .half = (readByte s (a + 1#32) ++ readByte s a).setWidth 32 := by
  simp [memRead, readBytes, Width.bytes, assemble_half]

theorem memRead_word (s : State) (a : Word) :
    memRead s a .word = readByte s (a + 3#32) ++ readByte s (a + 2#32) ++ readByte s (a + 1#32)
      ++ readByte s a := by
  simp only [memRead, readBytes, Width.bytes, assemble_word]
  have e1 : a + 1#32 + 1#32 = a + 2#32 := by rw [BitVec.add_assoc]; rfl
  have e2 : a + 2#32 + 1#32 = a + 3#32 := by rw [BitVec.add_assoc]; rfl
  rw [e1, e2]

/-- A read answers by the bytes it reads. -/
theorem readBytes_congr {s t : State} (h : t.mem = s.mem) (a : Word) (n : Nat) :
    readBytes t a n = readBytes s a n := by
  induction n generalizing a with
  | zero => rfl
  | succ k ih => simp only [readBytes, ih, readByte, h]

theorem memRead_congr {s t : State} (h : t.mem = s.mem) (a : Word) (w : Width) :
    memRead t a w = memRead s a w := by
  simp only [memRead, readBytes_congr h]

end Machine

end Sys2Proof
end

