-- ==== Sys2Proof/Laws/Ops.lean ====
section
/-! SUPPORT. What each shared operation can do, said once: the provers cite these instead of unfolding. -/

namespace Sys2Proof.Machine

variable {s t : State}

/-- A raised fault is no next state. -/
@[simp] theorem raise_ne_next (f : InternalFault) : raise f s ≠ .next t := by simp [raise]

/-- A chain that answers a next state went through one. -/
theorem andThen_next {o : Host.Outcome State Fault Refusal}
    {k : State → Host.Outcome State Fault Refusal} (h : andThen o k = .next t) :
    ∃ u, o = .next u ∧ k u = .next t := by
  cases o <;> simp_all [andThen]

theorem commit_next {o : Host.Outcome State Fault Refusal} : commit s o = .next t ↔ o = .next t := by
  match o with
  | .next _ => simp [commit]
  | .fault (.internal _ _) => simp [commit]
  | .fault (.memoryNotAdmitted _ _ _) => simp [commit]
  | .refused _ => simp [commit]

theorem advance_next {o : Host.Outcome State Fault Refusal} :
    advance o = .next t ↔ ∃ u, o = .next u ∧ t = nextCycle u := by
  cases o <;> simp [advance, eq_comm]

/-- The outcomes of a load. -/
theorem loadAccess_next {w : Width} {ext : Width → Word → Word} (h : loadAccess w ext s = .next t) :
    s.cfg.admits (accessAddress s) w .load = true ∧
      t = setResult (noteRead s (accessAddress s) w (memRead s (accessAddress s) w))
        (ext w (memRead s (accessAddress s) w)) := by
  unfold loadAccess at h
  split at h
  · exact ⟨‹_›, by simpa using h.symm⟩
  · simp at h

/-- The outcomes of a store. -/
theorem storeAccess_next {w : Width} (h : storeAccess w s = .next t) :
    (s.cfg.inConsole (accessAddress s) = true ∧ t = consoleWrite s w (storeValue s)) ∨
      (s.cfg.inConsole (accessAddress s) = false ∧ s.cfg.admits (accessAddress s) w .store = true ∧
        t = memWrite s (accessAddress s) w (storeValue s)) := by
  unfold storeAccess at h
  split at h
  · exact .inl ⟨‹_›, by simpa using h.symm⟩
  · rename_i hc
    split at h
    · exact .inr ⟨by simpa using hc, ‹_›, by simpa using h.symm⟩
    · simp at h

/-- A CSR write that is accepted changes nothing. -/
theorem csrWrite_ok {a : CsrAddr} {v : Word} (h : csrWrite s a v = .ok t) : t = s := by
  unfold csrWrite at h
  split at h
  · split at h
    · simpa using h.symm
    · simp at h
  · simp at h

/-- The CSR path delivers the old value and changes nothing else. -/
theorem csrAccess_next {a : CsrAddr} (h : csrAccess a s = .next t) : t = setResult s s.v2 := by
  unfold csrAccess at h
  split at h
  · simp at h
  · split at h
    · split at h
      · rename_i h'
        rw [csrWrite_ok h'] at h
        simpa using h.symm
      · simp at h
    · simpa using h.symm

/-- The correction, or nothing. -/
theorem correctIf_cases (taken exempt : Bool) (s : State) :
    (taken = true ∧ exempt = false ∧ s.result ≠ linkAddress s ∧
        correctIf taken exempt s = correct s s.result) ∨
      correctIf taken exempt s = s := by
  unfold correctIf
  split
  · rename_i h
    simp only [Bool.and_eq_true, Bool.not_eq_true', bne_iff_ne, ne_eq] at h
    exact .inl ⟨h.1.1, h.1.2, h.2, rfl⟩
  · exact .inr rfl

/-- The stage answers a next state for a bubble, or by its three rows one after another. -/
theorem stage_next (h : stage s = .next t) :
    s.fault = none ∧
      ((s.idex = none ∧ t = s) ∨
        ∃ slot d u v, s.idex = some slot ∧ decode slot.cw = .ok d ∧
          exec d.alu (beginStep s slot.cw) = .next u ∧ exec d.bru u = .next v ∧
            exec d.mau v = .next t) := by
  unfold stage at h
  split at h
  · simp at h
  · refine ⟨‹_›, ?_⟩
    split at h
    · exact .inl ⟨‹_›, by simpa using h.symm⟩
    · split at h
      · simp at h
      · rw [commit_next] at h
        obtain ⟨u, hu, h⟩ := andThen_next h
        obtain ⟨v, hv, h⟩ := andThen_next h
        exact .inr ⟨_, _, u, v, ‹_›, ‹_›, hu, hv, h⟩

/-! ## Operands -/

theorem shiftAmount_eq (x : Word) : shiftAmount x = x.toNat % 32 := by
  simp [shiftAmount, BitVec.extractLsb'_toNat]

theorem linkAddress_toNat (s : State) : (linkAddress s).toNat = ((instrPc s).toNat + 4) % 2 ^ 32 := by
  simp [linkAddress, BitVec.toNat_add]

/-- The second operand value of a word that is not CSR-class. -/
theorem secondValue_register {cw : Cw} (h : Cw.isCsr cw = false) (s : State) :
    secondValue s cw = s.rs2Value := by
  simp [secondValue, h]

/-- The second operand value of a CSR-class word with a listed address. -/
theorem secondValue_csr {cw : Cw} (h : Cw.isCsr cw = true) {s : State} {n : CsrName}
    (hl : s.cfg.csrAddr.lookup (Cw.csrAddr cw) = some n) : secondValue s cw = csrValue s n := by
  simp [secondValue, h, csrRead, hl]

/-! ## The CSR gate -/

theorem CsrName_mem_all (n : CsrName) : n ∈ CsrName.all := by cases n <;> decide

/-- Distinct addresses are found again. -/
theorem lookup_addr (t : CsrTable) (h : (CsrName.all.map t.addr).Nodup) (n : CsrName) :
    t.lookup (t.addr n) = some n := by
  have inj := List.inj_on_of_nodup_map h
  unfold CsrTable.lookup
  cases hf : CsrName.all.find? (fun k => t.addr k == t.addr n) with
  | none =>
    have := List.find?_eq_none.1 hf n (CsrName_mem_all n)
    simp at this
  | some k =>
    have h1 := List.find?_some hf
    rw [inj (List.mem_of_find?_eq_some hf) (CsrName_mem_all n) (by simpa using h1)]

/-- An address of none of the sixteen is on no list. -/
theorem lookup_none (t : CsrTable) (a : CsrAddr) (h : ∀ n, a ≠ t.addr n) : t.lookup a = none := by
  unfold CsrTable.lookup
  rw [List.find?_eq_none]
  intro n _
  simpa using fun e => h n e.symm

theorem csrValue_control (s : State) {n : CsrName} (h : n.isControl = true) : csrValue s n = 0#32 := by
  cases n <;> simp_all [csrValue, CsrName.isControl]

/-! ## The stage -/

/-- The stage in a state that holds a word. -/
theorem stage_of_holds {slot : Slot} {d : Decoded} (h : Holds s slot d) :
    stage s = commit s (runUnits d (beginStep s slot.cw)) := by
  obtain ⟨a, b, c⟩ := h
  simp [stage, a, b, c]

end Sys2Proof.Machine
end

