-- ==== Sys2Proof/Laws/PerInstr.lean ====
section
/-! SUPPORT. Per-instruction facts about a row alone in a word: the word is well-formed and names the row. -/

namespace Sys2Proof.Laws.RowWord

/-- The row alone in a word is well-formed and stands in its own group. -/
def Statement (i : Instr) : Prop :=
  i.asDecoded.wellFormed = true ∧
    (match i.group with
      | .alu => i.asDecoded.alu = i
      | .bru => i.asDecoded.bru = i
      | .mau => i.asDecoded.mau = i)

theorem aluNone (o : AluOperands) : Statement (.aluNone o) := ⟨rfl, rfl⟩
theorem aluAdd (o : AluOperands) : Statement (.aluAdd o) := ⟨rfl, rfl⟩
theorem aluSub (o : AluOperands) : Statement (.aluSub o) := ⟨rfl, rfl⟩
theorem aluAnd (o : AluOperands) : Statement (.aluAnd o) := ⟨rfl, rfl⟩
theorem aluOr (o : AluOperands) : Statement (.aluOr o) := ⟨rfl, rfl⟩
theorem aluXor (o : AluOperands) : Statement (.aluXor o) := ⟨rfl, rfl⟩
theorem aluSll (o : AluOperands) : Statement (.aluSll o) := ⟨rfl, rfl⟩
theorem aluSrl (o : AluOperands) : Statement (.aluSrl o) := ⟨rfl, rfl⟩
theorem aluSra (o : AluOperands) : Statement (.aluSra o) := ⟨rfl, rfl⟩
theorem aluLt (o : AluOperands) : Statement (.aluLt o) := ⟨rfl, rfl⟩
theorem aluLtu (o : AluOperands) : Statement (.aluLtu o) := ⟨rfl, rfl⟩
theorem aluReserved11 (o : AluOperands) : Statement (.aluReserved11 o) := ⟨rfl, rfl⟩
theorem aluReserved12 (o : AluOperands) : Statement (.aluReserved12 o) := ⟨rfl, rfl⟩
theorem aluReserved13 (o : AluOperands) : Statement (.aluReserved13 o) := ⟨rfl, rfl⟩
theorem aluReserved14 (o : AluOperands) : Statement (.aluReserved14 o) := ⟨rfl, rfl⟩
theorem aluReserved15 (o : AluOperands) : Statement (.aluReserved15 o) := ⟨rfl, rfl⟩
theorem brNone : Statement .brNone := ⟨rfl, rfl⟩
theorem brJal : Statement .brJal := ⟨rfl, rfl⟩
theorem brJalr : Statement .brJalr := ⟨rfl, rfl⟩
theorem brBeq : Statement .brBeq := ⟨rfl, rfl⟩
theorem brBne : Statement .brBne := ⟨rfl, rfl⟩
theorem brBlt : Statement .brBlt := ⟨rfl, rfl⟩
theorem brBge : Statement .brBge := ⟨rfl, rfl⟩
theorem brBltu : Statement .brBltu := ⟨rfl, rfl⟩
theorem brBgeu : Statement .brBgeu := ⟨rfl, rfl⟩
theorem brReserved9 : Statement .brReserved9 := ⟨rfl, rfl⟩
theorem brReserved10 : Statement .brReserved10 := ⟨rfl, rfl⟩
theorem brReserved11 : Statement .brReserved11 := ⟨rfl, rfl⟩
theorem brReserved12 : Statement .brReserved12 := ⟨rfl, rfl⟩
theorem brReserved13 : Statement .brReserved13 := ⟨rfl, rfl⟩
theorem brReserved14 : Statement .brReserved14 := ⟨rfl, rfl⟩
theorem brReserved15 : Statement .brReserved15 := ⟨rfl, rfl⟩
theorem memLb : Statement .memLb := ⟨rfl, rfl⟩
theorem memLh : Statement .memLh := ⟨rfl, rfl⟩
theorem memLw : Statement .memLw := ⟨rfl, rfl⟩
theorem memLbu : Statement .memLbu := ⟨rfl, rfl⟩
theorem memLhu : Statement .memLhu := ⟨rfl, rfl⟩
theorem memLoadReserved3 : Statement .memLoadReserved3 := ⟨rfl, rfl⟩
theorem memLoadReserved6 : Statement .memLoadReserved6 := ⟨rfl, rfl⟩
theorem memLoadReserved7 : Statement .memLoadReserved7 := ⟨rfl, rfl⟩
theorem memSb : Statement .memSb := ⟨rfl, rfl⟩
theorem memSh : Statement .memSh := ⟨rfl, rfl⟩
theorem memSw : Statement .memSw := ⟨rfl, rfl⟩
theorem memStoreReserved3 : Statement .memStoreReserved3 := ⟨rfl, rfl⟩
theorem memStoreReserved4 : Statement .memStoreReserved4 := ⟨rfl, rfl⟩
theorem memStoreReserved5 : Statement .memStoreReserved5 := ⟨rfl, rfl⟩
theorem memStoreReserved6 : Statement .memStoreReserved6 := ⟨rfl, rfl⟩
theorem memStoreReserved7 : Statement .memStoreReserved7 := ⟨rfl, rfl⟩
theorem memCsr (fsel : BitVec 3) (addr : CsrAddr) : Statement (.memCsr fsel addr) := by
  refine ⟨?_, rfl⟩
  simp [Decoded.wellFormed, Instr.asDecoded, Instr.group, Instr.carriedBy, Instr.operands]
  apply BitVec.eq_of_toNat_eq
  simp [BitVec.extractLsb'_toNat, BitVec.toNat_setWidth]
  omega
theorem memNone (fsel : BitVec 3) : Statement (.memNone fsel) := ⟨rfl, rfl⟩

end Sys2Proof.Laws.RowWord
end

