-- ==== Sys2Proof/Tests/Slice0.lean ====
section
/-! SUPPORT. Tests: expected values are those of spec/95_test_vectors.md and of the encodings of
spec/30_encoding.md, and a witness for every statement that has hypotheses. -/

namespace Sys2Proof.Tests

open Sys2Proof.Machine

/-! ## Small states and views -/

/-- A word in the latch, with the front end of 95_test_vectors.md 2.3 and the counters of 2.5. -/
def holding (w : Cw) (pc r1 r2 : Word) : State :=
  { State.reset with
    idex := some ⟨w, pc, 0⟩, rs1Value := r1, rs2Value := r2, pc := 0x2008#32,
    ifid := some ⟨0, 0x2004#32, 0⟩, fetchStalled := true, cycles := 0x0000000100000001#64,
    instrs := 0x00000002FFFFFFFE#64 }

/-- The memory of the loads of 2.4, and zeros at 0 to 15 as in 2.6. -/
def loading (w : Cw) (r1 : Word) : State :=
  { holding w 0#32 r1 0#32 with
    mem := [(0, 0#8), (1, 0#8), (2, 0#8), (3, 0#8), (0x100, 0xEF#8), (0x101, 0xCD#8),
      (0x102, 0xAB#8), (0x103, 0x89#8), (0x104, 0x7F#8), (0x105, 0x80#8), (0x106, 0xFF#8),
      (0x107, 0x00#8)] }

/-- The memory of the stores of 2.4. -/
def storing (w : Cw) (r1 r2 : Word) : State :=
  { holding w 0#32 r1 r2 with
    mem := [(0x200, 0#8), (0x201, 0#8), (0x202, 0#8), (0x203, 0#8), (0x204, 0#8), (0x205, 0#8),
      (0x206, 0#8), (0x207, 0#8)] }

/-- The same state with a memory subsystem that refuses byte accesses at `a`. -/
def refusing (s : State) (a : Word) : State :=
  { s with cfg := { s.cfg with memRefused := [⟨a, .byte, .load⟩, ⟨a, .byte, .store⟩] } }

/-- The same state with the other call/jump kind exempt. -/
def jalrExempt (s : State) : State := { s with cfg := { s.cfg with exemptJump := .jalr } }

def resultOf : Host.Outcome State Fault Refusal → Option Word
  | .next t => some t.result
  | .fault _ => none
  | .refused _ => none

def frontOf : Host.Outcome State Fault Refusal → Option (Word × Bool × Bool)
  | .next t => some (t.pc, t.ifid.isNone, t.fetchStalled)
  | .fault _ => none
  | .refused _ => none

def bytesOf (o : Host.Outcome State Fault Refusal) (a n : Nat) : List (Option Byte) :=
  match o with
  | .next t => (List.range n).map fun k => Memory.read t.mem (a + k)
  | .fault _ => []
  | .refused _ => []

def consoleOf : Host.Outcome State Fault Refusal → Option (List Byte)
  | .next t => some t.console
  | .fault _ => none
  | .refused _ => none

def faultOf : Host.Outcome State Fault Refusal → Option InternalFault
  | .next _ => none
  | .fault (.internal f _) => some f
  | .fault (.memoryNotAdmitted _ _ _) => none
  | .refused _ => none

def refusalOf : Host.Outcome State Fault Refusal → Option Refusal
  | .next _ => none
  | .fault _ => none
  | .refused r => some r

def readOf : Except InternalFault Word → Option Word
  | .ok v => some v
  | .error _ => none

def writeOk : Except InternalFault State → Bool
  | .ok _ => true
  | .error _ => false

/-! ## Decoding: a word of each row, written out by R80 -/

/-- ALU tags 0 to 3 (R84), with flags, indices and immediate set. -/
theorem test_decode_alu_0_to_3 :
    decode 0x113579BC01FB40000#65 = .ok ⟨.aluNone ⟨false, false, false, false, 13#5, 0x89ABCDE0#32⟩, .brNone, .memNone 0#3, 31#5, 1#5⟩ ∧
    decode 0x113579BC22F384001#65 = .ok ⟨.aluAdd ⟨true, false, false, false, 14#5, 0x89ABCDE1#32⟩, .brNone, .memNone 0#3, 30#5, 2#5⟩ ∧
    decode 0x113579BC43EBC8002#65 = .ok ⟨.aluSub ⟨false, true, false, false, 15#5, 0x89ABCDE2#32⟩, .brNone, .memNone 0#3, 29#5, 3#5⟩ ∧
    decode 0x113579BC64E40C003#65 = .ok ⟨.aluAnd ⟨true, true, false, false, 16#5, 0x89ABCDE3#32⟩, .brNone, .memNone 0#3, 28#5, 4#5⟩ := by decide

/-- ALU tags 4 to 7 (R84), with flags, indices and immediate set. -/
theorem test_decode_alu_4_to_7 :
    decode 0x113579BC85DC50004#65 = .ok ⟨.aluOr ⟨false, false, true, false, 17#5, 0x89ABCDE4#32⟩, .brNone, .memNone 0#3, 27#5, 5#5⟩ ∧
    decode 0x113579BCA6D494005#65 = .ok ⟨.aluXor ⟨true, false, true, false, 18#5, 0x89ABCDE5#32⟩, .brNone, .memNone 0#3, 26#5, 6#5⟩ ∧
    decode 0x113579BCC7CCD8006#65 = .ok ⟨.aluSll ⟨false, true, true, false, 19#5, 0x89ABCDE6#32⟩, .brNone, .memNone 0#3, 25#5, 7#5⟩ ∧
    decode 0x113579BCE8C51C007#65 = .ok ⟨.aluSrl ⟨true, true, true, false, 20#5, 0x89ABCDE7#32⟩, .brNone, .memNone 0#3, 24#5, 8#5⟩ := by decide

/-- ALU tags 8 to 11 (R84), with flags, indices and immediate set. -/
theorem test_decode_alu_8_to_11 :
    decode 0x113579BD09BD60008#65 = .ok ⟨.aluSra ⟨false, false, false, true, 21#5, 0x89ABCDE8#32⟩, .brNone, .memNone 0#3, 23#5, 9#5⟩ ∧
    decode 0x113579BD2AB5A4009#65 = .ok ⟨.aluLt ⟨true, false, false, true, 22#5, 0x89ABCDE9#32⟩, .brNone, .memNone 0#3, 22#5, 10#5⟩ ∧
    decode 0x113579BD4BADE800A#65 = .ok ⟨.aluLtu ⟨false, true, false, true, 23#5, 0x89ABCDEA#32⟩, .brNone, .memNone 0#3, 21#5, 11#5⟩ ∧
    decode 0x113579BD6CA62C00B#65 = .ok ⟨.aluReserved11 ⟨true, true, false, true, 24#5, 0x89ABCDEB#32⟩, .brNone, .memNone 0#3, 20#5, 12#5⟩ := by decide

/-- ALU tags 12 to 15 (R84), with flags, indices and immediate set. -/
theorem test_decode_alu_12_to_15 :
    decode 0x113579BD8D9E7000C#65 = .ok ⟨.aluReserved12 ⟨false, false, true, true, 25#5, 0x89ABCDEC#32⟩, .brNone, .memNone 0#3, 19#5, 13#5⟩ ∧
    decode 0x113579BDAE96B400D#65 = .ok ⟨.aluReserved13 ⟨true, false, true, true, 26#5, 0x89ABCDED#32⟩, .brNone, .memNone 0#3, 18#5, 14#5⟩ ∧
    decode 0x113579BDCF8EF800E#65 = .ok ⟨.aluReserved14 ⟨false, true, true, true, 27#5, 0x89ABCDEE#32⟩, .brNone, .memNone 0#3, 17#5, 15#5⟩ ∧
    decode 0x113579BDF0873C00F#65 = .ok ⟨.aluReserved15 ⟨true, true, true, true, 28#5, 0x89ABCDEF#32⟩, .brNone, .memNone 0#3, 16#5, 16#5⟩ := by decide

/-- BRU tags 0 to 3 (R85). -/
theorem test_decode_br_0_to_3 :
    decode 0x00000100093824001#65 = .ok ⟨.aluAdd ⟨true, false, false, true, 0#5, 0x00000800#32⟩, .brNone, .memNone 0#3, 7#5, 9#5⟩ ∧
    decode 0x00000100293824011#65 = .ok ⟨.aluAdd ⟨true, false, false, true, 0#5, 0x00000801#32⟩, .brJal, .memNone 0#3, 7#5, 9#5⟩ ∧
    decode 0x00000100493824021#65 = .ok ⟨.aluAdd ⟨true, false, false, true, 0#5, 0x00000802#32⟩, .brJalr, .memNone 0#3, 7#5, 9#5⟩ ∧
    decode 0x00000100693824031#65 = .ok ⟨.aluAdd ⟨true, false, false, true, 0#5, 0x00000803#32⟩, .brBeq, .memNone 0#3, 7#5, 9#5⟩ := by decide

/-- BRU tags 4 to 7 (R85). -/
theorem test_decode_br_4_to_7 :
    decode 0x00000100893824041#65 = .ok ⟨.aluAdd ⟨true, false, false, true, 0#5, 0x00000804#32⟩, .brBne, .memNone 0#3, 7#5, 9#5⟩ ∧
    decode 0x00000100A93824051#65 = .ok ⟨.aluAdd ⟨true, false, false, true, 0#5, 0x00000805#32⟩, .brBlt, .memNone 0#3, 7#5, 9#5⟩ ∧
    decode 0x00000100C93824061#65 = .ok ⟨.aluAdd ⟨true, false, false, true, 0#5, 0x00000806#32⟩, .brBge, .memNone 0#3, 7#5, 9#5⟩ ∧
    decode 0x00000100E93824071#65 = .ok ⟨.aluAdd ⟨true, false, false, true, 0#5, 0x00000807#32⟩, .brBltu, .memNone 0#3, 7#5, 9#5⟩ := by decide

/-- BRU tags 8 to 11 (R85). -/
theorem test_decode_br_8_to_11 :
    decode 0x00000101093824081#65 = .ok ⟨.aluAdd ⟨true, false, false, true, 0#5, 0x00000808#32⟩, .brBgeu, .memNone 0#3, 7#5, 9#5⟩ ∧
    decode 0x00000101293824091#65 = .ok ⟨.aluAdd ⟨true, false, false, true, 0#5, 0x00000809#32⟩, .brReserved9, .memNone 0#3, 7#5, 9#5⟩ ∧
    decode 0x000001014938240A1#65 = .ok ⟨.aluAdd ⟨true, false, false, true, 0#5, 0x0000080A#32⟩, .brReserved10, .memNone 0#3, 7#5, 9#5⟩ ∧
    decode 0x000001016938240B1#65 = .ok ⟨.aluAdd ⟨true, false, false, true, 0#5, 0x0000080B#32⟩, .brReserved11, .memNone 0#3, 7#5, 9#5⟩ := by decide

/-- BRU tags 12 to 15 (R85). -/
theorem test_decode_br_12_to_15 :
    decode 0x000001018938240C1#65 = .ok ⟨.aluAdd ⟨true, false, false, true, 0#5, 0x0000080C#32⟩, .brReserved12, .memNone 0#3, 7#5, 9#5⟩ ∧
    decode 0x00000101A938240D1#65 = .ok ⟨.aluAdd ⟨true, false, false, true, 0#5, 0x0000080D#32⟩, .brReserved13, .memNone 0#3, 7#5, 9#5⟩ ∧
    decode 0x00000101C938240E1#65 = .ok ⟨.aluAdd ⟨true, false, false, true, 0#5, 0x0000080E#32⟩, .brReserved14, .memNone 0#3, 7#5, 9#5⟩ ∧
    decode 0x00000101E938240F1#65 = .ok ⟨.aluAdd ⟨true, false, false, true, 0#5, 0x0000080F#32⟩, .brReserved15, .memNone 0#3, 7#5, 9#5⟩ := by decide

/-- Load selectors 0 to 3 (R86). -/
theorem test_decode_load_0_to_3 :
    decode 0x00000000C800A0801#65 = .ok ⟨.aluAdd ⟨false, false, false, true, 2#5, 0x00000006#32⟩, .brNone, .memLb, 0#5, 8#5⟩ ∧
    decode 0x00000000C800A0901#65 = .ok ⟨.aluAdd ⟨false, false, false, true, 2#5, 0x00000006#32⟩, .brNone, .memLh, 0#5, 8#5⟩ ∧
    decode 0x00000000C800A0A01#65 = .ok ⟨.aluAdd ⟨false, false, false, true, 2#5, 0x00000006#32⟩, .brNone, .memLw, 0#5, 8#5⟩ ∧
    decode 0x00000000C800A0B01#65 = .ok ⟨.aluAdd ⟨false, false, false, true, 2#5, 0x00000006#32⟩, .brNone, .memLoadReserved3, 0#5, 8#5⟩ := by decide

/-- Store selectors 0 to 3 (R86). -/
theorem test_decode_store_0_to_3 :
    decode 0x1FFFFFFF0048A1001#65 = .ok ⟨.aluAdd ⟨false, false, false, true, 2#5, 0xFFFFFFF8#32⟩, .brNone, .memSb, 9#5, 0#5⟩ ∧
    decode 0x1FFFFFFF0048A1101#65 = .ok ⟨.aluAdd ⟨false, false, false, true, 2#5, 0xFFFFFFF8#32⟩, .brNone, .memSh, 9#5, 0#5⟩ ∧
    decode 0x1FFFFFFF0048A1201#65 = .ok ⟨.aluAdd ⟨false, false, false, true, 2#5, 0xFFFFFFF8#32⟩, .brNone, .memSw, 9#5, 0#5⟩ ∧
    decode 0x1FFFFFFF0048A1301#65 = .ok ⟨.aluAdd ⟨false, false, false, true, 2#5, 0xFFFFFFF8#32⟩, .brNone, .memStoreReserved3, 9#5, 0#5⟩ := by decide

/-- Load selectors 4 to 7 (R86). -/
theorem test_decode_load_4_to_7 :
    decode 0x00000000C800A0C01#65 = .ok ⟨.aluAdd ⟨false, false, false, true, 2#5, 0x00000006#32⟩, .brNone, .memLbu, 0#5, 8#5⟩ ∧
    decode 0x00000000C800A0D01#65 = .ok ⟨.aluAdd ⟨false, false, false, true, 2#5, 0x00000006#32⟩, .brNone, .memLhu, 0#5, 8#5⟩ ∧
    decode 0x00000000C800A0E01#65 = .ok ⟨.aluAdd ⟨false, false, false, true, 2#5, 0x00000006#32⟩, .brNone, .memLoadReserved6, 0#5, 8#5⟩ ∧
    decode 0x00000000C800A0F01#65 = .ok ⟨.aluAdd ⟨false, false, false, true, 2#5, 0x00000006#32⟩, .brNone, .memLoadReserved7, 0#5, 8#5⟩ := by decide

/-- Store selectors 4 to 7 (R86). -/
theorem test_decode_store_4_to_7 :
    decode 0x1FFFFFFF0048A1401#65 = .ok ⟨.aluAdd ⟨false, false, false, true, 2#5, 0xFFFFFFF8#32⟩, .brNone, .memStoreReserved4, 9#5, 0#5⟩ ∧
    decode 0x1FFFFFFF0048A1501#65 = .ok ⟨.aluAdd ⟨false, false, false, true, 2#5, 0xFFFFFFF8#32⟩, .brNone, .memStoreReserved5, 9#5, 0#5⟩ ∧
    decode 0x1FFFFFFF0048A1601#65 = .ok ⟨.aluAdd ⟨false, false, false, true, 2#5, 0xFFFFFFF8#32⟩, .brNone, .memStoreReserved6, 9#5, 0#5⟩ ∧
    decode 0x1FFFFFFF0048A1701#65 = .ok ⟨.aluAdd ⟨false, false, false, true, 2#5, 0xFFFFFFF8#32⟩, .brNone, .memStoreReserved7, 9#5, 0#5⟩ := by decide

/-- The CSR class and no class, whose selector is ignored (R87, R89); words of 95_test_vectors.md 2.5 to 2.7. -/
theorem test_decode_csr_and_none :
    decode 0x0000006006021A003#65 = .ok ⟨.aluAnd ⟨false, true, true, false, 8#5, 0x00000300#32⟩, .brNone, .memCsr 0#3 0x300#12, 0#5, 6#5⟩ ∧
    decode 0x00000060000002304#65 = .ok ⟨.aluOr ⟨false, false, false, false, 0#5, 0x00000300#32⟩, .brNone, .memCsr 3#3 0x300#12, 0#5, 0#5⟩ ∧
    decode 0x1FFFFF60000002004#65 = .ok ⟨.aluOr ⟨false, false, false, false, 0#5, 0xFFFFFB00#32⟩, .brNone, .memCsr 0#3 0xB00#12, 0#5, 0#5⟩ ∧
    decode 0x00000000000000701#65 = .ok ⟨.aluAdd ⟨false, false, false, false, 0#5, 0x00000000#32⟩, .brNone, .memNone 7#3, 0#5, 0#5⟩ := by decide

/-- Further rows of 95_test_vectors.md 2.7. -/
theorem test_decode_rows_of_2_7 :
    decode 0x000000001FFFC000A#65 = .ok ⟨.aluLtu ⟨false, false, false, false, 31#5, 0x00000000#32⟩, .brNone, .memNone 0#3, 31#5, 31#5⟩ ∧
    decode 0x1FFFFFFFE10060001#65 = .ok ⟨.aluAdd ⟨false, false, false, true, 1#5, 0xFFFFFFFF#32⟩, .brNone, .memNone 0#3, 0#5, 1#5⟩ ∧
    decode 0x0FFFFFFFE00020001#65 = .ok ⟨.aluAdd ⟨false, false, false, true, 0#5, 0x7FFFFFFF#32⟩, .brNone, .memNone 0#3, 0#5, 0#5⟩ ∧
    decode 0x02468A00050024001#65 = .ok ⟨.aluAdd ⟨true, false, false, true, 0#5, 0x12345000#32⟩, .brNone, .memNone 0#3, 0#5, 5#5⟩ ∧
    decode 0x00000100010024011#65 = .ok ⟨.aluAdd ⟨true, false, false, true, 0#5, 0x00000800#32⟩, .brJal, .memNone 0#3, 0#5, 1#5⟩ ∧
    decode 0x00000000000060021#65 = .ok ⟨.aluAdd ⟨false, false, false, true, 1#5, 0x00000000#32⟩, .brJalr, .memNone 0#3, 0#5, 0#5⟩ := by decide

/-- The six refused words of 95_test_vectors.md 2.6 (R90). -/
theorem test_ill_formed_words :
    decode 0x00000000000001801#65 = .error .twoClassFlags ∧
    decode 0x00000000000002801#65 = .error .twoClassFlags ∧
    decode 0x00000000000003001#65 = .error .twoClassFlags ∧
    decode 0x00000000000001031#65 = .error .classFlagOnBranch ∧
    decode 0x00000000000002011#65 = .error .classFlagOnBranch ∧
    decode 0x00000000000000891#65 = .error .classFlagOnBranch ∧
    Cw.wellFormed 0x00000000000001801#65 = false ∧
    Cw.wellFormed 0x00000000000002801#65 = false ∧
    Cw.wellFormed 0x00000000000003001#65 = false ∧
    Cw.wellFormed 0x00000000000001031#65 = false ∧
    Cw.wellFormed 0x00000000000002011#65 = false ∧
    Cw.wellFormed 0x00000000000000891#65 = false := by decide

/-- The encoder on rows of 95_test_vectors.md 2.7. -/
theorem test_encode_rows_of_2_7 :
    encode ⟨.aluAdd ⟨false, false, false, false, 1#5, 0x00000000#32⟩, .brNone, .memNone 0#3, 2#5, 3#5⟩ = 0x00000000031040001#65 ∧
    encode ⟨.aluAdd ⟨false, false, false, true, 2#5, 0xFFFFFFF8#32⟩, .brNone, .memSw, 9#5, 0#5⟩ = 0x1FFFFFFF0048A1201#65 ∧
    encode ⟨.aluAnd ⟨false, true, true, false, 8#5, 0x00000300#32⟩, .brNone, .memCsr 0#3 0x300#12, 0#5, 6#5⟩ = 0x0000006006021A003#65 := by decide

/-- Rows of spec/opcode_table.json by their "match". -/
theorem test_table_words :
    decodeTableWord 65 0x1 = some (.aluAdd .zero) ∧
    decodeTableWord 65 0x30 = some .brBeq ∧
    decodeTableWord 65 0xA00 = some .memLw ∧
    decodeTableWord 65 0x2000 = some (.memCsr 0#3 0#12) ∧
    decodeTableWord 72 0x8 = some (.aluSra .zero) ∧
    decodeTableWord 72 (2 ^ 65) = none ∧
    decodeTableWord 65 0x1801 = none := by decide

/-! ## Well-formedness: an ill-formed term for each check -/

/-- A row of the wrong group in each place; a class flag on a branch; a CSR address the immediate does not carry. -/
theorem test_wellFormed_refuses :
    Decoded.wellFormed ⟨.aluAdd .zero, .brNone, .memNone 0#3, 0#5, 0#5⟩ = true ∧
    Decoded.wellFormed ⟨.brBeq, .brNone, .memNone 0#3, 0#5, 0#5⟩ = false ∧
    Decoded.wellFormed ⟨.aluAdd .zero, .memNone 0#3, .memNone 0#3, 0#5, 0#5⟩ = false ∧
    Decoded.wellFormed ⟨.aluAdd .zero, .brNone, .aluAdd .zero, 0#5, 0#5⟩ = false ∧
    Decoded.wellFormed ⟨.aluAdd .zero, .brBeq, .memLw, 0#5, 0#5⟩ = false ∧
    Decoded.wellFormed ⟨.aluOr .zero, .brNone, .memCsr 0#3 0x300#12, 0#5, 0#5⟩ = false := by decide

/-- Order, repeats and the end of the address space. -/
theorem test_memory_wf_refuses :
    Memory.wf [(0, 1#8), (5, 2#8)] = true ∧
    Memory.wf [(5, 1#8), (0, 2#8)] = false ∧
    Memory.wf [(5, 1#8), (5, 2#8)] = false ∧
    Memory.wf [(2 ^ 32, 1#8)] = false := by decide

/-- The window past the end, two equal CSR addresses, a non-canonical MEM_INIT. -/
theorem test_config_wf_refuses :
    Config.standard.wf = true ∧
    Config.wf { Config.standard with coutAddr := 0xFFFFFFFF#32, coutSize := 2 } = false ∧
    Config.wf { Config.standard with coutAddr := 0xFFFFFFFF#32, coutSize := 1 } = true ∧
    Config.wf { Config.standard with csrAddr := { CsrTable.standard with satp := 0xF14#12 } } = false ∧
    Config.wf { Config.standard with memInit := [(1, 0#8), (1, 0#8)] } = false := by decide

/-! ## ALU steps: rows of 95_test_vectors.md 2.1 and 2.2 -/

theorem test_alu_none :
    resultOf (step (holding 0x00000000000000000#65 0x1000#32 0x00000007#32 0x00000009#32)) = some 0x00000000#32 := by decide

theorem test_alu_add :
    resultOf (step (holding 0x00000000000000001#65 0x1000#32 0xFFFFFFFF#32 0x00000001#32)) = some 0x00000000#32 ∧
    resultOf (step (holding 0x00000000000000001#65 0x1000#32 0x00000100#32 0xFFFFFFF0#32)) = some 0x000000F0#32 := by decide

theorem test_alu_sub :
    resultOf (step (holding 0x00000000000000002#65 0x1000#32 0x00000005#32 0x00000007#32)) = some 0xFFFFFFFE#32 ∧
    resultOf (step (holding 0x00000000000000002#65 0x1000#32 0x00000000#32 0x80000000#32)) = some 0x80000000#32 := by decide

theorem test_alu_and :
    resultOf (step (holding 0x00000000000000003#65 0x1000#32 0xF0F0F0F0#32 0x0FF00FF0#32)) = some 0x00F000F0#32 ∧
    resultOf (step (holding 0x00000000000000003#65 0x1000#32 0xFFFFFFFF#32 0x00000000#32)) = some 0x00000000#32 := by decide

theorem test_alu_or :
    resultOf (step (holding 0x00000000000000004#65 0x1000#32 0xF0F0F0F0#32 0x0FF00FF0#32)) = some 0xFFF0FFF0#32 := by decide

theorem test_alu_xor :
    resultOf (step (holding 0x00000000000000005#65 0x1000#32 0xDEADBEEF#32 0xFFFFFFFF#32)) = some 0x21524110#32 ∧
    resultOf (step (holding 0x00000000000000005#65 0x1000#32 0xDEADBEEF#32 0xDEADBEEF#32)) = some 0x00000000#32 := by decide

theorem test_alu_sll :
    resultOf (step (holding 0x00000000000000006#65 0x1000#32 0x80000001#32 0x00000001#32)) = some 0x00000002#32 ∧
    resultOf (step (holding 0x00000000000000006#65 0x1000#32 0xDEADBEEF#32 0x00000020#32)) = some 0xDEADBEEF#32 ∧
    resultOf (step (holding 0x00000000000000006#65 0x1000#32 0xDEADBEEF#32 0x00000021#32)) = some 0xBD5B7DDE#32 := by decide

theorem test_alu_srl :
    resultOf (step (holding 0x00000000000000007#65 0x1000#32 0x80000000#32 0x00000001#32)) = some 0x40000000#32 ∧
    resultOf (step (holding 0x00000000000000007#65 0x1000#32 0xDEADBEEF#32 0x00000020#32)) = some 0xDEADBEEF#32 ∧
    resultOf (step (holding 0x00000000000000007#65 0x1000#32 0xDEADBEEF#32 0x00000021#32)) = some 0x6F56DF77#32 := by decide

theorem test_alu_sra :
    resultOf (step (holding 0x00000000000000008#65 0x1000#32 0x80000000#32 0x00000001#32)) = some 0xC0000000#32 ∧
    resultOf (step (holding 0x00000000000000008#65 0x1000#32 0xDEADBEEF#32 0x00000024#32)) = some 0xFDEADBEE#32 ∧
    resultOf (step (holding 0x00000000000000008#65 0x1000#32 0x40000000#32 0x00000001#32)) = some 0x20000000#32 := by decide

theorem test_alu_lt :
    resultOf (step (holding 0x00000000000000009#65 0x1000#32 0x80000000#32 0x7FFFFFFF#32)) = some 0x00000001#32 ∧
    resultOf (step (holding 0x00000000000000009#65 0x1000#32 0x00000000#32 0xFFFFFFFF#32)) = some 0x00000000#32 ∧
    resultOf (step (holding 0x00000000000000009#65 0x1000#32 0x00000005#32 0x00000005#32)) = some 0x00000000#32 := by decide

theorem test_alu_ltu :
    resultOf (step (holding 0x0000000000000000A#65 0x1000#32 0x00000000#32 0xFFFFFFFF#32)) = some 0x00000001#32 ∧
    resultOf (step (holding 0x0000000000000000A#65 0x1000#32 0x80000000#32 0x7FFFFFFF#32)) = some 0x00000000#32 ∧
    resultOf (step (holding 0x0000000000000000A#65 0x1000#32 0x00000005#32 0x00000005#32)) = some 0x00000000#32 := by decide

/-- The nine rows of 2.2. -/
theorem test_operand_selection :
    resultOf (step (holding 0x000000000001C0001#65 0x1000#32 0x10#32 0x3#32)) = some 0x00000013#32 ∧
    resultOf (step (holding 0x1FFFFFFF8001E0001#65 0x1000#32 0x10#32 0x3#32)) = some 0x0000000C#32 ∧
    resultOf (step (holding 0x1FFFFFFF8001E4001#65 0x1000#32 0x10#32 0x3#32)) = some 0x00000FFC#32 ∧
    resultOf (step (holding 0x000000000001C8001#65 0x1000#32 0x10#32 0x3#32)) = some 0x0000000A#32 ∧
    resultOf (step (holding 0x000000000001D0003#65 0x1000#32 0x10#32 0x3#32)) = some 0x00000003#32 ∧
    resultOf (step (holding 0x000000000001D8003#65 0x1000#32 0x10#32 0x3#32)) = some 0x00000000#32 ∧
    resultOf (step (holding 0x000000000001D0002#65 0x1000#32 0x10#32 0x3#32)) = some 0xFFFFFFEC#32 ∧
    resultOf (step (holding 0x000000000001D4001#65 0x1000#32 0x10#32 0x3#32)) = some 0xFFFFF002#32 ∧
    resultOf (step (holding 0x000000000001CC001#65 0x1000#32 0x10#32 0x3#32)) = some 0x00001003#32 := by decide

/-! ## Branch steps: rows of 95_test_vectors.md 2.3 -/

theorem test_branch_jal :
    resultOf (step (holding 0x00000020000024011#65 0x2000#32 0x00000000#32 0x00000000#32)) = some 0x00002004#32 ∧
    frontOf (step (holding 0x00000020000024011#65 0x2000#32 0x00000000#32 0x00000000#32)) = some (0x00002008#32, false, true) ∧
    resultOf (step (holding 0x00000000800024011#65 0x2000#32 0x00000000#32 0x00000000#32)) = some 0x00002004#32 ∧
    frontOf (step (holding 0x00000000800024011#65 0x2000#32 0x00000000#32 0x00000000#32)) = some (0x00002008#32, false, true) := by decide

theorem test_branch_jalr :
    resultOf (step (holding 0x00000001000020021#65 0x2000#32 0x00003000#32 0x00000000#32)) = some 0x00002004#32 ∧
    frontOf (step (holding 0x00000001000020021#65 0x2000#32 0x00003000#32 0x00000000#32)) = some (0x00003008#32, true, false) ∧
    resultOf (step (holding 0x00000000800020021#65 0x2000#32 0x00002000#32 0x00000000#32)) = some 0x00002004#32 ∧
    frontOf (step (holding 0x00000000800020021#65 0x2000#32 0x00002000#32 0x00000000#32)) = some (0x00002008#32, false, true) ∧
    resultOf (step (holding 0x00000000000020021#65 0x2000#32 0x00003001#32 0x00000000#32)) = some 0x00002004#32 ∧
    frontOf (step (holding 0x00000000000020021#65 0x2000#32 0x00003001#32 0x00000000#32)) = some (0x00003001#32, true, false) := by decide

theorem test_branch_beq :
    resultOf (step (holding 0x1FFFFFFE000024031#65 0x2000#32 0x00000005#32 0x00000005#32)) = some 0x00001FF0#32 ∧
    frontOf (step (holding 0x1FFFFFFE000024031#65 0x2000#32 0x00000005#32 0x00000005#32)) = some (0x00001FF0#32, true, false) ∧
    resultOf (step (holding 0x1FFFFFFE000024031#65 0x2000#32 0x00000005#32 0x00000006#32)) = some 0x00001FF0#32 ∧
    frontOf (step (holding 0x1FFFFFFE000024031#65 0x2000#32 0x00000005#32 0x00000006#32)) = some (0x00002008#32, false, true) ∧
    resultOf (step (holding 0x00000000800024031#65 0x2000#32 0x00000005#32 0x00000005#32)) = some 0x00002004#32 ∧
    frontOf (step (holding 0x00000000800024031#65 0x2000#32 0x00000005#32 0x00000005#32)) = some (0x00002008#32, false, true) := by decide

theorem test_branch_bne :
    resultOf (step (holding 0x00000004000024041#65 0x2000#32 0x00000005#32 0x00000006#32)) = some 0x00002020#32 ∧
    frontOf (step (holding 0x00000004000024041#65 0x2000#32 0x00000005#32 0x00000006#32)) = some (0x00002020#32, true, false) ∧
    resultOf (step (holding 0x00000004000024041#65 0x2000#32 0x00000005#32 0x00000005#32)) = some 0x00002020#32 ∧
    frontOf (step (holding 0x00000004000024041#65 0x2000#32 0x00000005#32 0x00000005#32)) = some (0x00002008#32, false, true) := by decide

theorem test_branch_blt :
    resultOf (step (holding 0x00000008000024051#65 0x2000#32 0x80000000#32 0x7FFFFFFF#32)) = some 0x00002040#32 ∧
    frontOf (step (holding 0x00000008000024051#65 0x2000#32 0x80000000#32 0x7FFFFFFF#32)) = some (0x00002040#32, true, false) ∧
    resultOf (step (holding 0x00000008000024051#65 0x2000#32 0x7FFFFFFF#32 0x80000000#32)) = some 0x00002040#32 ∧
    frontOf (step (holding 0x00000008000024051#65 0x2000#32 0x7FFFFFFF#32 0x80000000#32)) = some (0x00002008#32, false, true) ∧
    resultOf (step (holding 0x00000008000024051#65 0x2000#32 0x00000005#32 0x00000005#32)) = some 0x00002040#32 ∧
    frontOf (step (holding 0x00000008000024051#65 0x2000#32 0x00000005#32 0x00000005#32)) = some (0x00002008#32, false, true) := by decide

theorem test_branch_bge :
    resultOf (step (holding 0x00000008000024061#65 0x2000#32 0x7FFFFFFF#32 0x80000000#32)) = some 0x00002040#32 ∧
    frontOf (step (holding 0x00000008000024061#65 0x2000#32 0x7FFFFFFF#32 0x80000000#32)) = some (0x00002040#32, true, false) ∧
    resultOf (step (holding 0x00000008000024061#65 0x2000#32 0x80000000#32 0x7FFFFFFF#32)) = some 0x00002040#32 ∧
    frontOf (step (holding 0x00000008000024061#65 0x2000#32 0x80000000#32 0x7FFFFFFF#32)) = some (0x00002008#32, false, true) ∧
    resultOf (step (holding 0x00000008000024061#65 0x2000#32 0x00000005#32 0x00000005#32)) = some 0x00002040#32 ∧
    frontOf (step (holding 0x00000008000024061#65 0x2000#32 0x00000005#32 0x00000005#32)) = some (0x00002040#32, true, false) := by decide

theorem test_branch_bltu :
    resultOf (step (holding 0x00000008000024071#65 0x2000#32 0x7FFFFFFF#32 0x80000000#32)) = some 0x00002040#32 ∧
    frontOf (step (holding 0x00000008000024071#65 0x2000#32 0x7FFFFFFF#32 0x80000000#32)) = some (0x00002040#32, true, false) ∧
    resultOf (step (holding 0x00000008000024071#65 0x2000#32 0x80000000#32 0x7FFFFFFF#32)) = some 0x00002040#32 ∧
    frontOf (step (holding 0x00000008000024071#65 0x2000#32 0x80000000#32 0x7FFFFFFF#32)) = some (0x00002008#32, false, true) ∧
    resultOf (step (holding 0x00000008000024071#65 0x2000#32 0x00000000#32 0xFFFFFFFF#32)) = some 0x00002040#32 ∧
    frontOf (step (holding 0x00000008000024071#65 0x2000#32 0x00000000#32 0xFFFFFFFF#32)) = some (0x00002040#32, true, false) := by decide

theorem test_branch_bgeu :
    resultOf (step (holding 0x00000008000024081#65 0x2000#32 0x80000000#32 0x7FFFFFFF#32)) = some 0x00002040#32 ∧
    frontOf (step (holding 0x00000008000024081#65 0x2000#32 0x80000000#32 0x7FFFFFFF#32)) = some (0x00002040#32, true, false) ∧
    resultOf (step (holding 0x00000008000024081#65 0x2000#32 0x7FFFFFFF#32 0x80000000#32)) = some 0x00002040#32 ∧
    frontOf (step (holding 0x00000008000024081#65 0x2000#32 0x7FFFFFFF#32 0x80000000#32)) = some (0x00002008#32, false, true) ∧
    resultOf (step (holding 0x00000008000024081#65 0x2000#32 0x00000005#32 0x00000005#32)) = some 0x00002040#32 ∧
    frontOf (step (holding 0x00000008000024081#65 0x2000#32 0x00000005#32 0x00000005#32)) = some (0x00002040#32, true, false) := by decide

/-- Link wrap and the sequential target across the wrap. -/
theorem test_branch_link_wraps :
    resultOf (step (holding 0x00000000000020021#65 0xFFFFFFFC#32 0x40#32 0#32)) = some 0x00000000#32 ∧
    frontOf (step (holding 0x00000000000020021#65 0xFFFFFFFC#32 0x40#32 0#32)) = some (0x00000040#32, true, false) ∧
    frontOf (step (holding 0x00000000000020021#65 0xFFFFFFFC#32 0#32 0#32)) = some (0x00002008#32, false, true) := by decide

/-- Not branch-class: no correction. -/
theorem test_branch_none_passes :
    resultOf (step (holding 0x1#65 0x2000#32 0x2000#32 0x100#32)) = some 0x00002100#32 ∧
    frontOf (step (holding 0x1#65 0x2000#32 0x2000#32 0x100#32)) = some (0x00002008#32, false, true) := by decide

/-! ## Loads, stores and the console: rows of 95_test_vectors.md 2.4 -/

theorem test_load_lb :
    resultOf (step (loading 0x00000000000020801#65 0x100#32)) = some 0xFFFFFFEF#32 ∧
    resultOf (step (loading 0x00000000800020801#65 0x100#32)) = some 0x0000007F#32 ∧
    resultOf (step (loading 0x00000000A00020801#65 0x100#32)) = some 0xFFFFFF80#32 := by decide

theorem test_load_lh :
    resultOf (step (loading 0x00000000000020901#65 0x100#32)) = some 0xFFFFCDEF#32 ∧
    resultOf (step (loading 0x00000000400020901#65 0x100#32)) = some 0xFFFF89AB#32 ∧
    resultOf (step (loading 0x00000000800020901#65 0x100#32)) = some 0xFFFF807F#32 ∧
    resultOf (step (loading 0x00000000C00020901#65 0x100#32)) = some 0x000000FF#32 := by decide

theorem test_load_lw :
    resultOf (step (loading 0x00000000000020A01#65 0x100#32)) = some 0x89ABCDEF#32 ∧
    resultOf (step (loading 0x00000000800020A01#65 0x100#32)) = some 0x00FF807F#32 ∧
    resultOf (step (loading 0x00000000200020A01#65 0x100#32)) = some 0x7F89ABCD#32 ∧
    resultOf (step (loading 0x00000000400020A01#65 0x100#32)) = some 0x807F89AB#32 := by decide

theorem test_load_lbu :
    resultOf (step (loading 0x00000000000020C01#65 0x100#32)) = some 0x000000EF#32 ∧
    resultOf (step (loading 0x00000000800020C01#65 0x100#32)) = some 0x0000007F#32 ∧
    resultOf (step (loading 0x00000000A00020C01#65 0x100#32)) = some 0x00000080#32 := by decide

theorem test_load_lhu :
    resultOf (step (loading 0x00000000000020D01#65 0x100#32)) = some 0x0000CDEF#32 ∧
    resultOf (step (loading 0x00000000400020D01#65 0x100#32)) = some 0x000089AB#32 ∧
    resultOf (step (loading 0x00000000800020D01#65 0x100#32)) = some 0x0000807F#32 ∧
    resultOf (step (loading 0x00000000A00020D01#65 0x100#32)) = some 0x0000FF80#32 := by decide

theorem test_store_sb :
    bytesOf (step (storing 0x00000000000021001#65 0x200#32 0xA1B2C3D4#32)) 0x200 3 = [some 0xD4#8, some 0x00#8, some 0x00#8] ∧
    resultOf (step (storing 0x00000000A00021001#65 0x200#32 0xA1B2C3D4#32)) = some 0x00000205#32 := by decide

theorem test_store_sh :
    bytesOf (step (storing 0x00000000200021101#65 0x200#32 0xA1B2C3D4#32)) 0x200 4 = [some 0x00#8, some 0xD4#8, some 0xC3#8, some 0x00#8] ∧
    resultOf (step (storing 0x00000000200021101#65 0x200#32 0xA1B2C3D4#32)) = some 0x00000201#32 := by decide

/-- The last clauses: wrap-around (R56). -/
theorem test_store_sw :
    bytesOf (step (storing 0x00000000800021201#65 0x200#32 0xA1B2C3D4#32)) 0x204 4 = [some 0xD4#8, some 0xC3#8, some 0xB2#8, some 0xA1#8] ∧
    bytesOf (step (storing 0x00000000000021201#65 0xFFFFFFFE#32 0x11223344#32)) 0xFFFFFFFE 2 = [some 0x44#8, some 0x33#8] ∧
    bytesOf (step (storing 0x00000000000021201#65 0xFFFFFFFE#32 0x11223344#32)) 0 2 = [some 0x22#8, some 0x11#8] := by decide

/-- The five edges of the window. -/
theorem test_console_window :
    consoleOf (step (storing 0x00000000000021001#65 0x10000000#32 0x6C6C6548#32)) = some [0x48#8] ∧
    consoleOf (step (storing 0x00000000000021101#65 0x10000010#32 0x6C6C6548#32)) = some [0x48#8, 0x65#8] ∧
    consoleOf (step (storing 0x00000000000021201#65 0x1000003F#32 0x6C6C6548#32)) = some [0x48#8, 0x65#8, 0x6C#8, 0x6C#8] ∧
    consoleOf (step (storing 0x00000000000021201#65 0x10000040#32 0x6C6C6548#32)) = some [] ∧
    consoleOf (step (storing 0x00000000000021001#65 0x0FFFFFFF#32 0x6C6C6548#32)) = some [] := by decide

/-- A console store leaves memory alone; a store that starts before the window goes wholly to memory. -/
theorem test_console_or_memory :
    bytesOf (step (storing 0x00000000000021201#65 0x1000003F#32 0x6C6C6548#32)) 0x10000040 3 = [none, none, none] ∧
    bytesOf (step (storing 0x00000000000021201#65 0x0FFFFFFD#32 0x6C6C6548#32)) 0x0FFFFFFD 4 = [some 0x48#8, some 0x65#8, some 0x6C#8, some 0x6C#8] := by decide

/-! ## CSR: rows of 95_test_vectors.md 2.5 -/

/-- Every completing row. -/
theorem test_csr_steps_complete :
    resultOf (step (holding 0x00000060000002004#65 0#32 0x00000008#32 0x55555555#32)) = some 0x00000000#32 ∧
    resultOf (step (holding 0x00000060000002004#65 0#32 0x00000000#32 0x55555555#32)) = some 0x00000000#32 ∧
    resultOf (step (holding 0x00000060800012003#65 0#32 0x000000FF#32 0x55555555#32)) = some 0x00000000#32 ∧
    resultOf (step (holding 0x00000160000002004#65 0#32 0x00000000#32 0x55555555#32)) = some 0x00000001#32 ∧
    resultOf (step (holding 0x00000170000002004#65 0#32 0x00000000#32 0x55555555#32)) = some 0x00000001#32 ∧
    resultOf (step (holding 0x00000160400002004#65 0#32 0x00000000#32 0x55555555#32)) = some 0xFFFFFFFE#32 ∧
    resultOf (step (holding 0x00000170400002004#65 0#32 0x00000000#32 0x55555555#32)) = some 0x00000002#32 ∧
    resultOf (step (holding 0x00000160000002004#65 0#32 0x00000001#32 0x55555555#32)) = some 0x00000001#32 ∧
    resultOf (step (holding 0x00000160400012003#65 0#32 0x00000001#32 0x55555555#32)) = some 0xFFFFFFFE#32 ∧
    resultOf (step (holding 0x00000060A0014A004#65 0#32 0x12345678#32 0x55555555#32)) = some 0x00000000#32 ∧
    resultOf (step (holding 0x1FFFFF60000002004#65 0#32 0x00000000#32 0x55555555#32)) = some 0x00000001#32 ∧
    resultOf (step (holding 0x000001E2800002000#65 0#32 0x00000007#32 0x55555555#32)) = some 0x00000000#32 ∧
    resultOf (step (holding 0x00000068200002001#65 0#32 0x00001234#32 0x55555555#32)) = some 0x00000000#32 := by decide

/-- Every faulting row. -/
theorem test_csr_steps_fault :
    faultOf (step (holding 0x00000160000002004#65 0#32 0x00000002#32 0x55555555#32)) = some (.csrWriteDenied 0xB00#12 0x00000003#32) ∧
    faultOf (step (holding 0x00000160400012003#65 0#32 0x00000002#32 0x55555555#32)) = some (.csrWriteDenied 0xB02#12 0xFFFFFFFC#32) ∧
    faultOf (step (holding 0x00000068000002004#65 0#32 0x00000000#32 0x55555555#32)) = some (.csrReadDenied 0x340#12) ∧
    faultOf (step (holding 0x00000068000002004#65 0#32 0x00000001#32 0x55555555#32)) = some (.csrReadDenied 0x340#12) ∧
    faultOf (step (holding 0x00000160000002000#65 0#32 0x00000007#32 0x55555555#32)) = some (.csrWriteDenied 0xB00#12 0x00000000#32) := by decide

/-- Every row of CsrRead. -/
theorem test_csr_gate_reads :
    readOf (csrRead (holding 0#65 0#32 0#32 0#32) 0xF14#12) = some 0x00000000#32 ∧
    readOf (csrRead (holding 0#65 0#32 0#32 0#32) 0x180#12) = some 0x00000000#32 ∧
    readOf (csrRead (holding 0#65 0#32 0#32 0#32) 0x3A0#12) = some 0x00000000#32 ∧
    readOf (csrRead (holding 0#65 0#32 0#32 0#32) 0x3B0#12) = some 0x00000000#32 ∧
    readOf (csrRead (holding 0#65 0#32 0#32 0#32) 0x300#12) = some 0x00000000#32 ∧
    readOf (csrRead (holding 0#65 0#32 0#32 0#32) 0x301#12) = some 0x00000000#32 ∧
    readOf (csrRead (holding 0#65 0#32 0#32 0#32) 0x302#12) = some 0x00000000#32 ∧
    readOf (csrRead (holding 0#65 0#32 0#32 0#32) 0x303#12) = some 0x00000000#32 ∧
    readOf (csrRead (holding 0#65 0#32 0#32 0#32) 0x304#12) = some 0x00000000#32 ∧
    readOf (csrRead (holding 0#65 0#32 0#32 0#32) 0x305#12) = some 0x00000000#32 ∧
    readOf (csrRead (holding 0#65 0#32 0#32 0#32) 0x341#12) = some 0x00000000#32 ∧
    readOf (csrRead (holding 0#65 0#32 0#32 0#32) 0x744#12) = some 0x00000000#32 ∧
    readOf (csrRead (holding 0#65 0#32 0#32 0#32) 0xB00#12) = some 0x00000001#32 ∧
    readOf (csrRead (holding 0#65 0#32 0#32 0#32) 0xB80#12) = some 0x00000001#32 ∧
    readOf (csrRead (holding 0#65 0#32 0#32 0#32) 0xB02#12) = some 0xFFFFFFFE#32 ∧
    readOf (csrRead (holding 0#65 0#32 0#32 0#32) 0xB82#12) = some 0x00000002#32 ∧
    readOf (csrRead (holding 0#65 0#32 0#32 0#32) 0x000#12) = none ∧
    readOf (csrRead (holding 0#65 0#32 0#32 0#32) 0x340#12) = none ∧
    readOf (csrRead (holding 0#65 0#32 0#32 0#32) 0xC00#12) = none ∧
    readOf (csrRead (holding 0#65 0#32 0#32 0#32) 0xB01#12) = none ∧
    readOf (csrRead (holding 0#65 0#32 0#32 0#32) 0xF11#12) = none ∧
    readOf (csrRead (holding 0#65 0#32 0#32 0#32) 0xFFF#12) = none := by decide

/-- Every row of CsrWrite. -/
theorem test_csr_gate_writes :
    writeOk (csrWrite (holding 0#65 0#32 0#32 0#32) 0xF14#12 0xFFFFFFFF#32) = true ∧
    writeOk (csrWrite (holding 0#65 0#32 0#32 0#32) 0x180#12 0xFFFFFFFF#32) = true ∧
    writeOk (csrWrite (holding 0#65 0#32 0#32 0#32) 0x3A0#12 0xFFFFFFFF#32) = true ∧
    writeOk (csrWrite (holding 0#65 0#32 0#32 0#32) 0x3B0#12 0xFFFFFFFF#32) = true ∧
    writeOk (csrWrite (holding 0#65 0#32 0#32 0#32) 0x300#12 0xFFFFFFFF#32) = true ∧
    writeOk (csrWrite (holding 0#65 0#32 0#32 0#32) 0x301#12 0xFFFFFFFF#32) = true ∧
    writeOk (csrWrite (holding 0#65 0#32 0#32 0#32) 0x302#12 0xFFFFFFFF#32) = true ∧
    writeOk (csrWrite (holding 0#65 0#32 0#32 0#32) 0x303#12 0xFFFFFFFF#32) = true ∧
    writeOk (csrWrite (holding 0#65 0#32 0#32 0#32) 0x304#12 0xFFFFFFFF#32) = true ∧
    writeOk (csrWrite (holding 0#65 0#32 0#32 0#32) 0x305#12 0xFFFFFFFF#32) = true ∧
    writeOk (csrWrite (holding 0#65 0#32 0#32 0#32) 0x341#12 0xFFFFFFFF#32) = true ∧
    writeOk (csrWrite (holding 0#65 0#32 0#32 0#32) 0x744#12 0xFFFFFFFF#32) = true ∧
    writeOk (csrWrite (holding 0#65 0#32 0#32 0#32) 0xB00#12 0x00000005#32) = false ∧
    writeOk (csrWrite (holding 0#65 0#32 0#32 0#32) 0xB80#12 0x00000005#32) = false ∧
    writeOk (csrWrite (holding 0#65 0#32 0#32 0#32) 0xB02#12 0x00000005#32) = false ∧
    writeOk (csrWrite (holding 0#65 0#32 0#32 0#32) 0xB82#12 0x00000005#32) = false ∧
    writeOk (csrWrite (holding 0#65 0#32 0#32 0#32) 0x340#12 0x00000005#32) = false ∧
    writeOk (csrWrite (holding 0#65 0#32 0#32 0#32) 0xC00#12 0x00000005#32) = false ∧
    writeOk (csrWrite (holding 0#65 0#32 0#32 0#32) 0x000#12 0x00000005#32) = false := by decide

/-! ## Faults and refusals: rows of 95_test_vectors.md 2.6 -/

theorem test_fault_alu_tags :
    faultOf (step (holding 0x0000000000000000B#65 0#32 0#32 0#32)) = some (.badAluTag 11#4) ∧
    faultOf (step (holding 0x0000000000000000C#65 0#32 0#32 0#32)) = some (.badAluTag 12#4) ∧
    faultOf (step (holding 0x0000000000000000D#65 0#32 0#32 0#32)) = some (.badAluTag 13#4) ∧
    faultOf (step (holding 0x0000000000000000E#65 0#32 0#32 0#32)) = some (.badAluTag 14#4) ∧
    faultOf (step (holding 0x0000000000000000F#65 0#32 0#32 0#32)) = some (.badAluTag 15#4) := by decide

theorem test_fault_branch_tags :
    faultOf (step (holding 0x00000000000000091#65 0#32 0#32 0#32)) = some (.badBranchTag 9#4) ∧
    faultOf (step (holding 0x000000000000000A1#65 0#32 0#32 0#32)) = some (.badBranchTag 10#4) ∧
    faultOf (step (holding 0x000000000000000F1#65 0#32 0#32 0#32)) = some (.badBranchTag 15#4) := by decide

theorem test_fault_selectors :
    faultOf (step (holding 0x00000000000000B01#65 0#32 0#32 0#32)) = some (.badWidthSelector .load 3#3) ∧
    faultOf (step (holding 0x00000000000000E01#65 0#32 0#32 0#32)) = some (.badWidthSelector .load 6#3) ∧
    faultOf (step (holding 0x00000000000000F01#65 0#32 0#32 0#32)) = some (.badWidthSelector .load 7#3) ∧
    faultOf (step (holding 0x00000000000001301#65 0#32 0#32 0#32)) = some (.badWidthSelector .store 3#3) ∧
    faultOf (step (holding 0x00000000000001401#65 0#32 0#32 0#32)) = some (.badWidthSelector .store 4#3) ∧
    faultOf (step (holding 0x00000000000001501#65 0#32 0#32 0#32)) = some (.badWidthSelector .store 5#3) ∧
    faultOf (step (holding 0x00000000000001601#65 0#32 0#32 0#32)) = some (.badWidthSelector .store 6#3) ∧
    faultOf (step (holding 0x00000000000001701#65 0#32 0#32 0#32)) = some (.badWidthSelector .store 7#3) := by decide

/-- BadAluTag before any other fault (R245). -/
theorem test_fault_priority :
    faultOf (step (holding 0x0000006800000200C#65 0#32 0#32 0#32)) = some (.badAluTag 12#4) ∧
    faultOf (step (holding 0x0000000000000009C#65 0#32 0#32 0#32)) = some (.badAluTag 12#4) ∧
    faultOf (step (holding 0x00000000000000B0C#65 0#32 0#32 0#32)) = some (.badAluTag 12#4) := by decide

/-- The accepted neighbours of each refused value. -/
theorem test_nearest_accepted :
    resultOf (step (loading 0x0000000000000000A#65 0#32)) = some 0x00000000#32 ∧
    resultOf (step (loading 0x00000000000000081#65 0#32)) = some 0x00000000#32 ∧
    resultOf (step (loading 0x00000000000000D01#65 0#32)) = some 0x00000000#32 ∧
    resultOf (step (loading 0x00000000000001201#65 0#32)) = some 0x00000000#32 ∧
    resultOf (step (loading 0x00000000000000701#65 0#32)) = some 0x00000000#32 ∧
    resultOf (step (loading 0x00000060000002304#65 0#32)) = some 0x00000000#32 := by decide

/-- Also where a tag is reserved. -/
theorem test_refused_words :
    refusalOf (step (holding 0x00000000000001801#65 0#32 0#32 0#32)) = some (.notWellFormed .twoClassFlags) ∧
    refusalOf (step (holding 0x00000000000002801#65 0#32 0#32 0#32)) = some (.notWellFormed .twoClassFlags) ∧
    refusalOf (step (holding 0x00000000000003001#65 0#32 0#32 0#32)) = some (.notWellFormed .twoClassFlags) ∧
    refusalOf (step (holding 0x00000000000001031#65 0#32 0#32 0#32)) = some (.notWellFormed .classFlagOnBranch) ∧
    refusalOf (step (holding 0x00000000000002011#65 0#32 0#32 0#32)) = some (.notWellFormed .classFlagOnBranch) ∧
    refusalOf (step (holding 0x00000000000000891#65 0#32 0#32 0#32)) = some (.notWellFormed .classFlagOnBranch) := by decide

/-- Nothing committed (R244). -/
theorem test_fault_keeps_the_state :
    step (holding 0xB#65 0#32 0#32 0#32)
      = .fault (.internal (.badAluTag 11#4) { holding 0xB#65 0#32 0#32 0#32 with fault := some (.badAluTag 11#4) }) := rfl

/-- AUIPC-like word of 2.7 from reset at address 0; a bubble with nothing placed. -/
theorem test_reset_runs_a_placed_word :
    resultOf (step (State.reset.withFetchWord 65 0x02468A00050024001)) = some 0x12345000#32 ∧
    resultOf (step State.reset) = some 0#32 := by decide

/-! ## Witnesses: a state and operands that meet the hypotheses of each statement, clause by clause -/

/-- A word of each kind of clause. -/
def addWord : Cw := 0x1#65
def storeWord : Cw := 0x00000000000021201#65
def loadWord : Cw := 0x00000000000020A01#65
def csrWord : Cw := 0x00000060000002004#65
def cycleWord : Cw := 0x00000160000002004#65
def unlistedWord : Cw := 0x00000068000002004#65

def addRows : Decoded := ⟨.aluAdd .zero, .brNone, .memNone 0#3, 0#5, 0#5⟩

/-- `ADD` of `rs1Value` and the immediate 0. -/
def addImm : AluOperands := { AluOperands.zero with s2Imm := true }

theorem test_witness_DecodeOfEncode :
    Decoded.wellFormed ⟨.aluOr { AluOperands.zero with imm := 0x300#32 }, .brNone, .memCsr 7#3 0x300#12, 31#5, 31#5⟩
      = true := by decide

theorem test_witness_EncodeOfDecode : decode addWord = .ok addRows := by decide

theorem test_witness_DecodedRowsMatchTheTable :
    decode addWord = .ok addRows ∧
    addWord &&& Instr.rowMask (.aluAdd addImm) = Instr.rowMatch (.aluAdd addImm) ∧
    addWord &&& Instr.rowMask .brNone = Instr.rowMatch .brNone ∧
    addWord &&& Instr.rowMask (.memNone 5#3) = Instr.rowMatch (.memNone 5#3) := by decide

theorem test_witness_RowWordsNameTheirRow :
    Instr.memCsr 0#3 0xB00#12 ≠ .brNone ∧ Instr.isMemNone (.memCsr 0#3 0xB00#12) = false := by decide

theorem test_witness_selected_alu :
    Cw.aluOp 0xA#65 = 10#4 ∧ decode 0xA#65 = .ok ⟨.aluLtu .zero, .brNone, .memNone 0#3, 0#5, 0#5⟩ := by decide

theorem test_witness_selected_br :
    Cw.brOp 0x81#65 = 8#4 ∧ decode 0x81#65 = .ok ⟨.aluAdd .zero, .brBgeu, .memNone 0#3, 0#5, 0#5⟩ := by decide

theorem test_witness_selected_mem :
    loadWord.extractLsb' 8 6 = 10#6 ∧ decode loadWord = .ok ⟨.aluAdd addImm, .brNone, .memLw, 0#5, 0#5⟩ := by decide

theorem test_witness_StepRunsTheDecodedRows_next :
    Holds (holding addWord 0#32 1#32 2#32) ⟨addWord, 0#32, 0⟩ addRows ∧
    ∃ t u v, exec addRows.alu (beginStep (holding addWord 0#32 1#32 2#32) addWord) = .next t ∧
      exec addRows.bru t = .next u ∧ exec addRows.mau u = .next v :=
  ⟨⟨rfl, rfl, rfl⟩, _, _, _, rfl, rfl, rfl⟩

theorem test_witness_StepRunsTheDecodedRows_alu :
    Holds (holding 0xB#65 0#32 0#32 0#32) ⟨0xB#65, 0#32, 0⟩
      ⟨.aluReserved11 .zero, .brNone, .memNone 0#3, 0#5, 0#5⟩ ∧
    ∃ f a, exec (.aluReserved11 .zero) (beginStep (holding 0xB#65 0#32 0#32 0#32) 0xB#65)
      = .fault (.internal f a) := ⟨⟨rfl, rfl, rfl⟩, _, _, rfl⟩

theorem test_witness_StepRunsTheDecodedRows_bru :
    Holds (holding 0x91#65 0#32 0#32 0#32) ⟨0x91#65, 0#32, 0⟩
      ⟨.aluAdd .zero, .brReserved9, .memNone 0#3, 0#5, 0#5⟩ ∧
    ∃ t f a, exec (.aluAdd .zero) (beginStep (holding 0x91#65 0#32 0#32 0#32) 0x91#65) = .next t ∧
      exec .brReserved9 t = .fault (.internal f a) := ⟨⟨rfl, rfl, rfl⟩, _, _, _, rfl, rfl⟩

theorem test_witness_StepRunsTheDecodedRows_mau :
    Holds (holding 0xB01#65 0#32 0#32 0#32) ⟨0xB01#65, 0#32, 0⟩
      ⟨.aluAdd .zero, .brNone, .memLoadReserved3, 0#5, 0#5⟩ ∧
    ∃ t u f a, exec (.aluAdd .zero) (beginStep (holding 0xB01#65 0#32 0#32 0#32) 0xB01#65) = .next t ∧
      exec .brNone t = .next u ∧ exec .memLoadReserved3 u = .fault (.internal f a) :=
  ⟨⟨rfl, rfl, rfl⟩, _, _, _, _, rfl, rfl, rfl⟩

theorem test_witness_StepRunsTheDecodedRows_refused_request :
    Holds (refusing (holding 0x801#65 0#32 7#32 0#32) 7#32) ⟨0x801#65, 0#32, 0⟩
      ⟨.aluAdd .zero, .brNone, .memLb, 0#5, 0#5⟩ ∧
    ∃ t u a w k, exec (.aluAdd .zero)
        (beginStep (refusing (holding 0x801#65 0#32 7#32 0#32) 7#32) 0x801#65) = .next t ∧
      exec .brNone t = .next u ∧ exec .memLb u = .fault (.memoryNotAdmitted a w k) :=
  ⟨⟨rfl, rfl, rfl⟩, _, _, _, _, _, rfl, rfl, rfl⟩

theorem test_witness_EmptyLatchIsABubble : State.reset.fault = none ∧ State.reset.idex = none :=
  ⟨rfl, rfl⟩

theorem test_witness_NoStepAfterAFault :
    (recordFault State.reset (.badAluTag 11#4)).fault = some (.badAluTag 11#4) := rfl

theorem test_witness_IllFormedWordsAreRefused :
    (holding 0x891#65 0#32 0#32 0#32).fault = none ∧
    (holding 0x891#65 0#32 0#32 0#32).idex = some ⟨0x891#65, 0#32, 0⟩ ∧
    Cw.wellFormed 0x891#65 = false := by decide

theorem test_witness_ResetIsSound : Config.standard.wf = true := by decide

/-- Inv with a non-empty memory, and a step that stores. -/
theorem test_witness_StepKeepsSoundness :
    Machine.Inv (storing storeWord 0x203#32 0xA1B2C3D4#32) ∧
    ∃ t, step (storing storeWord 0x203#32 0xA1B2C3D4#32) = .next t :=
  ⟨⟨by decide, by decide, rfl⟩, _, rfl⟩

theorem test_witness_FirstOperandSelection :
    AluOperands.s1Pc ⟨true, true, false, false, 7#5, 0#32⟩ = true ∧
    AluOperands.s1Idx ⟨false, true, false, false, 31#5, 0#32⟩ = true ∧
    selectFirst ⟨false, true, false, false, 31#5, 0#32⟩ State.reset = 31#32 ∧
    selectFirst .zero (holding 0#65 0#32 9#32 0#32) = 9#32 := by decide

theorem test_witness_FirstOperandInversion :
    AluOperands.s1Inv ⟨false, false, true, false, 0#5, 0#32⟩ = true ∧ AluOperands.zero.s1Inv = false := by
  decide

/-- Amounts 33 from the immediate and 1 from the register; 32 and 0; 0xFFFFFFFF and 31. -/
theorem test_witness_ShiftAmountIsModulo32 :
    (secondOperand { addImm with imm := 33#32 } State.reset).toNat % 32
      = (secondOperand .zero { State.reset with v2 := 1#32 }).toNat % 32 ∧
    firstOperand { addImm with imm := 33#32 } State.reset
      = firstOperand .zero { State.reset with v2 := 1#32 } ∧
    (32#32).toNat % 32 = (0#32).toNat % 32 ∧ (0xFFFFFFFF#32).toNat % 32 = (31#32).toNat % 32 := by decide

theorem test_witness_AluNoneReadsNoOperand : State.reset.cfg.noneResult = 0#32 := rfl

theorem test_witness_ReservedAluTagsFault :
    Holds (holding 0xB#65 0#32 0#32 0#32) ⟨0xB#65, 0#32, 0⟩
      ⟨.aluReserved11 .zero, .brNone, .memNone 0#3, 0#5, 0#5⟩ ∧
    11 ≤ (Cw.aluOp 0xB#65).toNat ∧
    Holds (holding 0x200F#65 0#32 0#32 0#32) ⟨0x200F#65, 0#32, 0⟩
      ⟨.aluReserved15 .zero, .brNone, .memCsr 0#3 0#12, 0#5, 0#5⟩ ∧
    11 ≤ (Cw.aluOp 0x200F#65).toNat :=
  ⟨⟨rfl, rfl, rfl⟩, by decide, ⟨rfl, rfl, rfl⟩, by decide⟩

theorem test_witness_CallJumpsLink :
    (holding 0x11#65 0#32 0#32 0#32).cfg.exemptJump = .jal ∧
    (jalrExempt (holding 0x11#65 0#32 0#32 0#32)).cfg.exemptJump = .jalr := ⟨rfl, rfl⟩

/-- With `EXEMPT_JUMP = JALR` it is `JAL` that is checked. -/
theorem test_other_exempt_jump :
    frontOf (step (jalrExempt (holding 0x00000000800024011#65 0x2000#32 0#32 0#32)))
      = some (0x00002008#32, false, true) ∧
    frontOf (step (jalrExempt (holding 0x00000001000024011#65 0x2000#32 0#32 0#32)))
      = some (0x00002008#32, true, false) ∧
    frontOf (step (jalrExempt (holding 0x00000001000020021#65 0x2000#32 0x3000#32 0#32)))
      = some (0x00002008#32, false, true) := by decide

theorem test_witness_ReservedBranchTagsFault :
    Holds (holding 0x91#65 0#32 0#32 0#32) ⟨0x91#65, 0#32, 0⟩
      ⟨.aluAdd .zero, .brReserved9, .memNone 0#3, 0#5, 0#5⟩ ∧
    (Cw.aluOp 0x91#65).toNat ≤ 10 ∧ 9 ≤ (Cw.brOp 0x91#65).toNat ∧
    Holds (holding 0xFA#65 0#32 0#32 0#32) ⟨0xFA#65, 0#32, 0⟩
      ⟨.aluLtu .zero, .brReserved15, .memNone 0#3, 0#5, 0#5⟩ ∧
    (Cw.aluOp 0xFA#65).toNat ≤ 10 ∧ 9 ≤ (Cw.brOp 0xFA#65).toNat :=
  ⟨⟨rfl, rfl, rfl⟩, by decide, by decide, ⟨rfl, rfl, rfl⟩, by decide, by decide⟩

theorem test_witness_loads_admitted :
    State.reset.cfg.admits 0xFFFFFFFF#32 .byte .load = true ∧
    State.reset.cfg.admits 0xFFFFFFFF#32 .half .load = true ∧
    State.reset.cfg.admits 0xFFFFFFFD#32 .word .load = true := by decide

/-- Just below the window, just above it, and at the top of the address space. -/
theorem test_witness_StoresWriteTheirBytes :
    Config.standard.inConsole 0x0FFFFFFF#32 = false ∧ Config.standard.inConsole 0x10000040#32 = false ∧
    Config.standard.inConsole 0xFFFFFFFE#32 = false ∧
    Config.standard.admits 0x0FFFFFFF#32 .byte .store = true ∧
    Config.standard.admits 0x10000040#32 .half .store = true ∧
    Config.standard.admits 0xFFFFFFFE#32 .word .store = true := by decide

/-- The first and the last address of the window. -/
theorem test_witness_ConsoleStoresAppend :
    Config.standard.coutAddr.toNat ≤ (0x10000000#32).toNat ∧
    (0x10000000#32).toNat < Config.standard.coutAddr.toNat + Config.standard.coutSize ∧
    Config.standard.coutAddr.toNat ≤ (0x1000003F#32).toNat ∧
    (0x1000003F#32).toNat < Config.standard.coutAddr.toNat + Config.standard.coutSize := by decide

theorem test_witness_ReservedSelectorsFault :
    Holds (holding 0xB01#65 0#32 0#32 0#32) ⟨0xB01#65, 0#32, 0⟩
      ⟨.aluAdd .zero, .brNone, .memLoadReserved3, 0#5, 0#5⟩ ∧
    (Cw.aluOp 0xB01#65).toNat ≤ 10 ∧ Cw.isLoad 0xB01#65 = true ∧ (Cw.fsel 0xB01#65).toNat ∈ [3, 6, 7] ∧
    Holds (holding 0x170A#65 0#32 0#32 0#32) ⟨0x170A#65, 0#32, 0⟩
      ⟨.aluLtu .zero, .brNone, .memStoreReserved7, 0#5, 0#5⟩ ∧
    (Cw.aluOp 0x170A#65).toNat ≤ 10 ∧ Cw.isStore 0x170A#65 = true ∧ 3 ≤ (Cw.fsel 0x170A#65).toNat :=
  ⟨⟨rfl, rfl, rfl⟩, by decide, by decide, by decide, ⟨rfl, rfl, rfl⟩, by decide, by decide, by decide⟩

theorem test_witness_RefusedRequestsStop :
    (refusing State.reset 5#32).cfg.admits 5#32 .byte .load = false ∧
    (refusing State.reset 5#32).cfg.admits 5#32 .byte .store = false ∧
    (refusing State.reset 5#32).cfg.inConsole 5#32 = false := by decide

theorem test_witness_StoreThenLoadRoundTrip :
    (setResult State.reset 0xFFFFFFFE#32).cfg.inConsole (setResult State.reset 0xFFFFFFFE#32).result = false ∧
    (∃ t, exec .memSb (setResult State.reset 0xFFFFFFFE#32) = .next t) ∧
    (∃ t, exec .memSh (setResult State.reset 0xFFFFFFFE#32) = .next t) ∧
    (∃ t, exec .memSw (setResult State.reset 0xFFFFFFFE#32) = .next t) :=
  ⟨by decide, ⟨_, rfl⟩, ⟨_, rfl⟩, ⟨_, rfl⟩⟩

/-- Distinct addresses, and addresses on no list: 0, 0xB01 between two counters, 0xFFF. -/
theorem test_witness_csr_gate :
    (CsrName.all.map State.reset.cfg.csrAddr.addr).Nodup ∧
    (∀ a ∈ [0x000#12, 0xB01#12, 0xFFF#12], ∀ n ∈ CsrName.all, a ≠ State.reset.cfg.csrAddr.addr n) := by
  decide

theorem test_witness_CsrRowReadsThenWrites :
    State.reset.cfg.csrAddr.lookup 0x744#12 = some .mnstatus ∧ CsrName.isControl .mnstatus = true ∧
    State.reset.cfg.csrAddr.lookup 0xB82#12 = some .minstreth ∧ CsrName.isControl .minstreth = false ∧
    State.reset.result = State.reset.v2 ∧
    (setResult State.reset 1#32).result ≠ (setResult State.reset 1#32).v2 ∧
    State.reset.cfg.csrAddr.lookup 0xB81#12 = none := by decide

theorem test_witness_ControlCsrStepReadsZero :
    Holds (holding csrWord 0#32 8#32 0#32) ⟨csrWord, 0#32, 0⟩
      ⟨.aluOr { AluOperands.zero with imm := 0x300#32 }, .brNone, .memCsr 0#3 0x300#12, 0#5, 0#5⟩ ∧
    Config.standard.csrAddr.lookup 0x300#12 = some .mstatus ∧ CsrName.isControl .mstatus = true :=
  ⟨⟨rfl, rfl, rfl⟩, by decide, rfl⟩

/-- With `rs1Value` 1 the new value equals the counter half, with 2 it differs. -/
theorem test_witness_CounterCsrStep :
    (∀ r ∈ [1#32, 2#32], Holds (holding cycleWord 0#32 r 0#32) ⟨cycleWord, 0#32, 0⟩
      ⟨.aluOr { AluOperands.zero with imm := 0xB00#32 }, .brNone, .memCsr 0#3 0xB00#12, 0#5, 0#5⟩) ∧
    Config.standard.csrAddr.lookup 0xB00#12 = some .mcycle ∧ CsrName.isControl .mcycle = false ∧
    resultOf (stage (holding cycleWord 0#32 1#32 0#32)) = some 1#32 ∧
    faultOf (stage (holding cycleWord 0#32 2#32 0#32)) = some (.csrWriteDenied 0xB00#12 3#32) :=
  ⟨fun _ _ => ⟨rfl, rfl, rfl⟩, by decide, rfl, by decide, by decide⟩

theorem test_witness_UnlistedCsrStepFaults :
    Holds (holding unlistedWord 0#32 0#32 0#32) ⟨unlistedWord, 0#32, 0⟩
      ⟨.aluOr { AluOperands.zero with imm := 0x340#32 }, .brNone, .memCsr 0#3 0x340#12, 0#5, 0#5⟩ ∧
    (Cw.aluOp unlistedWord).toNat ≤ 10 ∧ Cw.isCsr unlistedWord = true ∧
    (∀ n ∈ CsrName.all, unlistedWord.extractLsb' 33 12 ≠ Config.standard.csrAddr.addr n) :=
  ⟨⟨rfl, rfl, rfl⟩, by decide, by decide, by decide⟩

theorem test_witness_CsrWordsIgnoreTheSecondRegister :
    Cw.isCsr cycleWord = true ∧
    (∃ t, stage (holding cycleWord 0#32 1#32 0#32) = .next t) ∧
    (∃ f t, stage (holding cycleWord 0#32 2#32 0#32) = .fault (.internal f t)) :=
  ⟨rfl, ⟨_, rfl⟩, ⟨_, _, rfl⟩⟩

theorem test_witness_NonStoringFrame :
    Instr.storeWidth .memLw = none ∧ (∃ t, exec .memLw (loading 0#65 0#32) = .next t) ∧
    Instr.storeWidth .brBeq = none ∧ (∃ t, exec .brBeq (setResult State.reset 9#32) = .next t) ∧
    Instr.storeWidth (.memCsr 0#3 0x300#12) = none ∧
    (∃ t, exec (.memCsr 0#3 0x300#12) (setResult State.reset 9#32) = .next t) ∧
    Instr.group (.aluAdd .zero) ≠ .bru ∧ (∃ t, exec (.aluAdd .zero) State.reset = .next t) :=
  ⟨rfl, ⟨_, rfl⟩, rfl, ⟨_, rfl⟩, rfl, ⟨_, rfl⟩, by decide, ⟨_, rfl⟩⟩

/-- Inside and outside the window. -/
theorem test_witness_StoreFrame :
    Instr.storeWidth .memSw = some .word ∧
    (∃ t, exec .memSw (setResult State.reset 0x1000003F#32) = .next t) ∧
    Config.standard.inConsole 0x1000003F#32 = true ∧
    (∃ t, exec .memSw (setResult State.reset 0x10000040#32) = .next t) ∧
    Config.standard.inConsole 0x10000040#32 = false :=
  ⟨rfl, ⟨_, rfl⟩, by decide, ⟨_, rfl⟩, by decide⟩

/-- The stage completes: a correction, a store to memory, a store to the console, a bubble. -/
theorem test_witness_stage_completes :
    (∃ t, stage (holding 0x00000001000020021#65 0x2000#32 0x3000#32 0#32) = .next t ∧
      t.redirect = some 0x3008#32) ∧
    (∃ t, stage (storing storeWord 0x203#32 7#32) = .next t ∧ t.console = []) ∧
    (∃ t, stage (holding storeWord 0#32 0x10000000#32 7#32) = .next t ∧ t.memReq = none) ∧
    (∃ t, stage State.reset = .next t) :=
  ⟨⟨_, rfl, rfl⟩, ⟨_, rfl, rfl⟩, ⟨_, rfl, rfl⟩, ⟨_, rfl⟩⟩

theorem test_witness_AtMostOneRequestPerStep :
    Holds (storing storeWord 0x203#32 7#32) ⟨storeWord, 0#32, 0⟩
      ⟨.aluAdd addImm, .brNone, .memSw, 0#5, 0#5⟩ ∧
    (∃ t, stage (storing storeWord 0x203#32 7#32) = .next t) ∧
    Holds (holding addWord 0#32 0#32 0#32) ⟨addWord, 0#32, 0⟩ addRows ∧
    (∃ t, stage (holding addWord 0#32 0#32 0#32) = .next t) ∧
    addRows.mau.storeWidth = none ∧ addRows.bru = .brNone ∧
    addRows.mau ∉ [Instr.memLb, .memLh, .memLw, .memLbu, .memLhu] :=
  ⟨⟨rfl, rfl, rfl⟩, ⟨_, rfl⟩, ⟨rfl, rfl, rfl⟩, ⟨_, rfl⟩, rfl, rfl, by decide⟩

theorem test_witness_FaultsCommitNothing :
    ∃ f t, step (holding 0x91#65 0#32 0#32 0#32) = .fault (.internal f t) := ⟨_, _, rfl⟩

theorem test_witness_CleanWordsComplete :
    Holds (holding csrWord 0#32 8#32 0#32) ⟨csrWord, 0#32, 0⟩
      ⟨.aluOr { AluOperands.zero with imm := 0x300#32 }, .brNone, .memCsr 0#3 0x300#12, 0#5, 0#5⟩ ∧
    Instr.isReserved (.aluOr .zero) = false ∧ Instr.isReserved .brNone = false ∧
    Instr.isReserved (.memCsr 0#3 0x300#12) = false ∧
    (∀ a w k, Config.standard.admits a w k = true) ∧
    Config.standard.csrAddr.lookup 0x300#12 = some .mstatus ∧ CsrName.isControl .mstatus = true :=
  ⟨⟨rfl, rfl, rfl⟩, rfl, rfl, rfl, fun _ _ _ => rfl, by decide, rfl⟩

theorem test_witness_NopStep :
    (holding 0#65 0x40#32 1#32 2#32).fault = none ∧
    (holding 0#65 0x40#32 1#32 2#32).idex = some ⟨0#65, 0x40#32, 0⟩ := ⟨rfl, rfl⟩

/-- A completing word and a faulting one. -/
theorem test_witness_IndexFieldsAndIdentifierAreIgnored :
    addRows.wellFormed = true ∧
    (∃ t, stage (holding (encode addRows) 0#32 1#32 2#32) = .next t) ∧
    Decoded.wellFormed ⟨.aluReserved11 .zero, .brNone, .memNone 0#3, 0#5, 0#5⟩ = true ∧
    (∃ f t, stage (holding (encode ⟨.aluReserved11 .zero, .brNone, .memNone 0#3, 0#5, 0#5⟩) 0#32 1#32 2#32)
      = .fault (.internal f t)) :=
  ⟨rfl, ⟨_, rfl⟩, rfl, ⟨_, _, rfl⟩⟩

/-- A correction with no input to come, and with one whose front end makes no update. -/
theorem test_witness_CorrectionIsVisibleNextCycle :
    (∃ t, stage (holding 0x00000001000020021#65 0x2000#32 0x3000#32 0#32) = .next t ∧
      t.redirect = some 0x3008#32) ∧
    ∀ c rest, (holding 0x00000001000020021#65 0x2000#32 0x3000#32 0#32).env = c :: rest → c.front = none :=
  ⟨⟨_, rfl, rfl⟩, fun _ _ h => by cases h⟩

/-- The load word of the next cycle. -/
def loadNext : CycleInput := ⟨some ⟨loadWord, 4#32, 1⟩, 0x203#32, 0#32, 0#64, 0#64, none⟩

/-- A store of a word at a misaligned address, with the load to come. -/
def storeThenLoad : State := { storing storeWord 0x203#32 0xA1B2C3D4#32 with env := [loadNext] }

theorem test_witness_StoredWordIsLoadedNextCycle :
    storeThenLoad.fault = none ∧
    storeThenLoad.idex = some ⟨encode ⟨.aluAdd addImm, .brNone, .memSw, 0#5, 0#5⟩, 0#32, 0⟩ ∧
    storeThenLoad.env = [loadNext] ∧
    loadNext.idex = some ⟨encode ⟨.aluAdd addImm, .brNone, .memLw, 0#5, 0#5⟩, 4#32, 1⟩ ∧
    loadNext.rs1Value = storeThenLoad.rs1Value ∧
    storeThenLoad.cfg.inConsole storeThenLoad.rs1Value = false ∧
    storeThenLoad.cfg.admits storeThenLoad.rs1Value .word .store = true ∧
    storeThenLoad.cfg.admits storeThenLoad.rs1Value .word .load = true := by decide

/-- The two steps one after another (R196, R246). -/
theorem test_store_then_load :
    (match step storeThenLoad with
      | .next t => resultOf (step t)
      | .fault _ => none
      | .refused _ => none) = some 0xA1B2C3D4#32 := by decide

/-- Both sources of the second operand, the flag `s1_inv` set beside each. -/
theorem test_witness_SecondOperandSelection :
    AluOperands.s2Imm ⟨false, false, true, true, 0#5, 0xFFFFFFFC#32⟩ = true ∧
    secondOperand ⟨false, false, true, true, 0#5, 0xFFFFFFFC#32⟩ { State.reset with v2 := 3#32 } = 0xFFFFFFFC#32 ∧
    AluOperands.s2Imm ⟨false, false, true, false, 0#5, 0xFFFFFFFC#32⟩ = false ∧
    secondOperand ⟨false, false, true, false, 0#5, 0xFFFFFFFC#32⟩ { State.reset with v2 := 3#32 } = 3#32 := by
  decide

/-- An ordinary ALU word, and a CSR-class word whose address the gate answers. -/
theorem test_witness_SecondOperandValueIsRs2Value :
    Holds (holding addWord 0#32 1#32 2#32) ⟨addWord, 0#32, 0⟩ addRows ∧
    addWord.getLsbD 13 = false ∧ addRows.alu.isReserved = false ∧ addRows.bru = .brNone ∧
    addRows.mau.isMemNone = true ∧
    Holds (holding cycleWord 0#32 1#32 2#32) ⟨cycleWord, 0#32, 0⟩
      ⟨.aluOr { AluOperands.zero with imm := 0xB00#32 }, .brNone, .memCsr 0#3 0xB00#12, 0#5, 0#5⟩ ∧
    cycleWord.getLsbD 13 = true ∧
    csrRead (holding cycleWord 0#32 1#32 2#32) (cycleWord.extractLsb' 33 12) = .ok 1#32 :=
  ⟨⟨rfl, rfl, rfl⟩, rfl, rfl, rfl, rfl, ⟨rfl, rfl, rfl⟩, rfl, rfl⟩

/-- A completing store and a faulting word. -/
theorem test_witness_FetchSeesStoresIsNotRead :
    (∃ t, stage (storing storeWord 0x203#32 7#32) = .next t) ∧
    (∃ f t, stage (holding 0x91#65 0#32 0#32 0#32) = .fault (.internal f t)) :=
  ⟨⟨_, rfl⟩, ⟨_, _, rfl⟩⟩

end Sys2Proof.Tests
end

section
/-! PROOF of the scope statement O52: every defined row completes where memory and the CSR gate let it. -/

namespace Sys2Proof.Machine

variable {s : State}

/-! ## When a shared operation completes -/

/-- A chain whose first unit completes goes on from the state it answers. -/
@[simp] theorem andThen_of_next (s : State) (k : State → Host.Outcome State Fault Refusal) :
    andThen (.next s) k = k s := rfl

@[simp] theorem correctIf_cfg (taken exempt : Bool) (s : State) :
    (correctIf taken exempt s).cfg = s.cfg := by
  rcases correctIf_cases taken exempt s with ⟨_, _, _, h⟩ | h
  · rw [h, correct_cfg]
  · rw [h]

/-- An admitted load completes. -/
theorem loadAccess_of_admits {w : Width} (ext : Width → Word → Word)
    (h : s.cfg.admits (accessAddress s) w .load = true) :
    loadAccess w ext s =
      .next (setResult (noteRead s (accessAddress s) w (memRead s (accessAddress s) w))
        (ext w (memRead s (accessAddress s) w))) := if_pos h

/-- A store in the console window completes, admitted or not. -/
theorem storeAccess_of_inConsole (w : Width) (h : s.cfg.inConsole (accessAddress s) = true) :
    storeAccess w s = .next (consoleWrite s w (storeValue s)) := if_pos h

/-- An admitted store outside the console window completes. -/
theorem storeAccess_of_admits {w : Width} (hc : s.cfg.inConsole (accessAddress s) = false)
    (h : s.cfg.admits (accessAddress s) w .store = true) :
    storeAccess w s = .next (memWrite s (accessAddress s) w (storeValue s)) := by
  simp [storeAccess, hc, h]

/-- Where its request is admitted, a store completes on either side of the window's edge. -/
theorem storeAccess_completes {w : Width} (h : s.cfg.admits (accessAddress s) w .store = true) :
    ∃ t, storeAccess w s = .next t := by
  cases hc : s.cfg.inConsole (accessAddress s) with
  | true => exact ⟨_, storeAccess_of_inConsole w hc⟩
  | false => exact ⟨_, storeAccess_of_admits hc h⟩

/-- The gate answers the read of a listed address. -/
theorem csrRead_of_lookup {a : CsrAddr} {n : CsrName} (h : s.cfg.csrAddr.lookup a = some n) :
    csrRead s a = .ok (csrValue s n) := by
  simp [csrRead, h]

/-- The gate accepts and discards a write to the control/status group. -/
theorem csrWrite_of_control {a : CsrAddr} {n : CsrName} (h : s.cfg.csrAddr.lookup a = some n)
    (hn : n.isControl = true) (v : Word) : csrWrite s a v = .ok s := by
  simp [csrWrite, h, hn]

/-- The CSR path on a control/status CSR completes, whether it writes or not. -/
theorem csrAccess_of_control {a : CsrAddr} {n : CsrName} (h : s.cfg.csrAddr.lookup a = some n)
    (hn : n.isControl = true) : csrAccess a s = .next (setResult s s.v2) := by
  simp [csrAccess, csrRead_of_lookup h, csrWrite_of_control h hn]

/-! ## When a row completes -/

/-- A defined ALU row completes and hands on a value, changing nothing else (R136). -/
theorem exec_alu_completes {i : Instr} (hg : i.group = .alu) (hr : i.isReserved = false)
    (s : State) : ∃ v, exec i s = .next (setResult s v) := by
  cases i with
  | aluNone | aluAdd | aluSub | aluAnd | aluOr | aluXor | aluSll | aluSrl | aluSra | aluLt
  | aluLtu => exact ⟨_, rfl⟩
  | aluReserved11 | aluReserved12 | aluReserved13 | aluReserved14 | aluReserved15 => cases hr
  | _ => cases hg

/-- A defined BRU row completes under the same parameters, whether or not it corrects. -/
theorem exec_bru_completes {i : Instr} (hg : i.group = .bru) (hr : i.isReserved = false)
    (s : State) : ∃ t, exec i s = .next t ∧ t.cfg = s.cfg := by
  cases i with
  | brNone => exact ⟨_, rfl, rfl⟩
  | brJal | brJalr => exact ⟨_, rfl, correctIf_cfg true _ s⟩
  | brBeq | brBne | brBlt | brBge | brBltu | brBgeu => exact ⟨_, rfl, correctIf_cfg _ false s⟩
  | brReserved9 | brReserved10 | brReserved11 | brReserved12 | brReserved13 | brReserved14
  | brReserved15 => cases hr
  | _ => cases hg

/-- A defined MAU row completes where every request is admitted and a CSR row's address names a
control/status CSR. -/
theorem exec_mau_completes {i : Instr} (hg : i.group = .mau) (hr : i.isReserved = false)
    (hadm : ∀ a w k, s.cfg.admits a w k = true)
    (hcsr : ∀ fsel a, i = .memCsr fsel a →
      ∃ n, s.cfg.csrAddr.lookup a = some n ∧ n.isControl = true) :
    ∃ t, exec i s = .next t := by
  cases i with
  | memLb | memLh | memLw | memLbu | memLhu => exact ⟨_, loadAccess_of_admits _ (hadm _ _ _)⟩
  | memSb | memSh | memSw => exact storeAccess_completes (hadm _ _ _)
  | memCsr fsel a =>
    obtain ⟨n, hl, hn⟩ := hcsr fsel a rfl
    exact ⟨_, csrAccess_of_control hl hn⟩
  | memNone => exact ⟨s, rfl⟩
  | memLoadReserved3 | memLoadReserved6 | memLoadReserved7 | memStoreReserved3
  | memStoreReserved4 | memStoreReserved5 | memStoreReserved6 | memStoreReserved7 => cases hr
  | _ => cases hg

/-! ## The statement -/

/-- Settles O52: the three rows complete one after another. The hypotheses on the parameters reach the
MAU because neither the ALU row nor the BRU row changes them. -/
theorem cleanWordsComplete : Obligations.CleanWordsComplete := by
  intro s slot d hs hra hrb hrm hadm hcsr
  have ⟨_, _, hdec⟩ := hs
  obtain ⟨hga, hgb, hgm, -⟩ := decode_groups hdec
  obtain ⟨v, ha⟩ := exec_alu_completes hga hra (beginStep s slot.cw)
  obtain ⟨u, hb, hcfg⟩ := exec_bru_completes hgb hrb (setResult (beginStep s slot.cw) v)
  rw [setResult_cfg, beginStep_cfg] at hcfg
  rw [← hcfg] at hadm hcsr
  obtain ⟨t, hm⟩ := exec_mau_completes hgm hrm hadm hcsr
  have hrun : runUnits d (beginStep s slot.cw) = .next t := by
    rw [runUnits, ha, andThen_of_next, hb, andThen_of_next, hm]
  have hstage : stage s = .next t := (stage_of_holds hs).trans (commit_next.2 hrun)
  exact ⟨nextCycle t, advance_next.2 ⟨t, hstage, rfl⟩⟩

end Sys2Proof.Machine
end

section
/-! PROOF of the state statements O9, O11, O12, O47, O48 and O49: reset and absorbing faults, and the frame
of one step, said once per unit. -/

namespace Sys2Proof.Machine

variable {s t : State} {i : Instr}

/-! ## Reset and the fault record -/

theorem memInit_wf_of_config_wf {c : Config} (h : c.wf = true) : Memory.wf c.memInit = true := by
  simp only [Config.wf, Bool.and_eq_true] at h
  exact h.2

/-- The base case of the invariant, for every well-formed parameter record (R38). -/
theorem inv_resetWith {c : Config} (h : c.wf = true) : Inv (State.resetWith c) :=
  ⟨memInit_wf_of_config_wf h, h, rfl⟩

/-- The stage takes no step past a recorded fault (R266). -/
theorem stage_of_fault {f : InternalFault} (h : s.fault = some f) :
    stage s = .fault (.internal f s) := by
  simp [stage, h]

/-- Settles O9: the stage answers the recorded fault, and there is no next cycle to move on to. -/
theorem noStepAfterAFault : Obligations.NoStepAfterAFault := by
  intro s f h
  rw [step, stage_of_fault h, advance]

/-- Settles O11, field by field. -/
theorem resetState : Obligations.ResetState :=
  ⟨fun _ => ⟨rfl, rfl, rfl, rfl, rfl, rfl, rfl, rfl⟩, rfl⟩

/-- Settles O12: the standard parameters are one well-formed record. -/
theorem resetIsSound : Obligations.ResetIsSound :=
  ⟨inv_resetWith (by decide), fun _ => inv_resetWith⟩

/-! ## What each unit can do -/

/-- An ALU row that completes hands on a value and changes nothing else (R136). -/
theorem exec_alu_next (hg : i.group = .alu) (h : exec i s = .next t) : ∃ x, t = setResult s x := by
  cases i with
  | aluNone | aluAdd | aluSub | aluAnd | aluOr | aluXor | aluSll | aluSrl | aluSra | aluLt
  | aluLtu => cases h; exact ⟨_, rfl⟩
  | aluReserved11 | aluReserved12 | aluReserved13 | aluReserved14 | aluReserved15 => cases h
  | _ => cases hg

/-- A value handed on after the conditional correction: it corrects to the target from the ALU, where that is
not the sequential address, or not at all. -/
theorem setResult_correctIf_cases (taken exempt : Bool) (s : State) (x : Word) :
    setResult (correctIf taken exempt s) x = setResult s x ∨
      (s.result ≠ linkAddress s ∧
        setResult (correctIf taken exempt s) x = setResult (correct s s.result) x) := by
  obtain ⟨-, -, hne, hc⟩ | hc := correctIf_cases taken exempt s
  · exact .inr ⟨hne, by rw [hc]⟩
  · exact .inl (by rw [hc])

/-- A BRU row that completes hands on a value, and only a branch away from the sequential address
corrects, to the value it took from the ALU (R163). -/
theorem exec_bru_next (hg : i.group = .bru) (h : exec i s = .next t) :
    ∃ x, t = setResult s x ∨
      (i ≠ .brNone ∧ s.result ≠ linkAddress s ∧ t = setResult (correct s s.result) x) := by
  cases i with
  | brNone => cases h; exact ⟨s.result, .inl rfl⟩
  | brJal | brJalr =>
    cases h
    exact ⟨linkAddress s, (setResult_correctIf_cases true _ s _).imp_right (.intro nofun)⟩
  | brBeq | brBne | brBlt | brBge | brBltu | brBgeu =>
    cases h
    exact ⟨(correctIf _ false s).result,
      (setResult_correctIf_cases _ false s _).imp_right (.intro nofun)⟩
  | brReserved9 | brReserved10 | brReserved11 | brReserved12 | brReserved13 | brReserved14
  | brReserved15 => cases h
  | _ => cases hg

/-- A MAU row that completes is a store, or touches its port and the result alone. -/
theorem exec_mau_next (hg : i.group = .mau) (h : exec i s = .next t) :
    (∃ w, i.storeWidth = some w ∧ storeAccess w s = .next t) ∨
      ∃ req x, t = { s with memReq := req, result := x } := by
  cases i with
  | memLb | memLh | memLw | memLbu | memLhu =>
    obtain ⟨-, rfl⟩ := loadAccess_next h
    exact .inr ⟨_, _, rfl⟩
  | memSb | memSh | memSw => exact .inl ⟨_, rfl, h⟩
  | memCsr fsel a =>
    cases csrAccess_next h
    exact .inr ⟨s.memReq, s.v2, rfl⟩
  | memNone => cases h; exact .inr ⟨s.memReq, s.result, rfl⟩
  | memLoadReserved3 | memLoadReserved6 | memLoadReserved7 | memStoreReserved3
  | memStoreReserved4 | memStoreReserved5 | memStoreReserved6 | memStoreReserved7 => cases h
  | _ => cases hg

/-! ## The frame of a step -/

theorem sameInputs_trans {u : State} (h₁ : SameInputs s t) (h₂ : SameInputs t u) : SameInputs s u := by
  obtain ⟨a, b, c, d, e, f, g, j, k⟩ := h₁
  obtain ⟨a', b', c', d', e', f', g', j', k'⟩ := h₂
  exact ⟨a'.trans a, b'.trans b, c'.trans c, d'.trans d, e'.trans e, f'.trans f, g'.trans g,
    j'.trans j, k'.trans k⟩

/-- No row of any group changes what a step takes from outside. -/
theorem exec_sameInputs (h : exec i s = .next t) : SameInputs s t := by
  cases hg : i.group with
  | alu =>
    obtain ⟨x, rfl⟩ := exec_alu_next hg h
    exact ⟨rfl, rfl, rfl, rfl, rfl, rfl, rfl, rfl, rfl⟩
  | bru =>
    obtain ⟨x, rfl | ⟨-, -, rfl⟩⟩ := exec_bru_next hg h <;>
      exact ⟨rfl, rfl, rfl, rfl, rfl, rfl, rfl, rfl, rfl⟩
  | mau =>
    obtain ⟨w, -, hw⟩ | ⟨req, x, rfl⟩ := exec_mau_next hg h
    · obtain ⟨-, rfl⟩ | ⟨-, -, rfl⟩ := storeAccess_next hw <;>
        exact ⟨rfl, rfl, rfl, rfl, rfl, rfl, rfl, rfl, rfl⟩
    · exact ⟨rfl, rfl, rfl, rfl, rfl, rfl, rfl, rfl, rfl⟩

/-- The MAU leaves the front end and the redirect port as the BRU left them. -/
theorem exec_mau_frontEnd (hg : i.group = .mau) (h : exec i s = .next t) :
    SameFrontEnd s t ∧ t.redirect = s.redirect := by
  obtain ⟨w, -, hw⟩ | ⟨req, x, rfl⟩ := exec_mau_next hg h
  · obtain ⟨-, rfl⟩ | ⟨-, -, rfl⟩ := storeAccess_next hw <;> exact ⟨⟨rfl, rfl, rfl⟩, rfl⟩
  · exact ⟨⟨rfl, rfl, rfl⟩, rfl⟩

theorem exec_bru_memory_console (hg : i.group = .bru) (h : exec i s = .next t) :
    t.mem = s.mem ∧ t.console = s.console := by
  obtain ⟨x, rfl | ⟨-, -, rfl⟩⟩ := exec_bru_next hg h <;> exact ⟨rfl, rfl⟩

/-- The stage answers a next state for a bubble, or by one run of its three units: the ALU's value `x`,
then the BRU row, then the MAU row. -/
theorem stage_next_units (h : stage s = .next t) :
    t = s ∨ ∃ slot d x v, s.idex = some slot ∧ decode slot.cw = .ok d ∧
      exec d.bru (setResult (beginStep s slot.cw) x) = .next v ∧ exec d.mau v = .next t := by
  obtain ⟨-, ⟨-, rfl⟩ | ⟨slot, d, u, v, hx, hd, ha, hb, hm⟩⟩ := stage_next h
  · exact .inl rfl
  · obtain ⟨x, rfl⟩ := exec_alu_next (decode_groups hd).1 ha
    exact .inr ⟨slot, d, x, v, hx, hd, hb, hm⟩

theorem linkAddress_of_idex {slot : Slot} (h : s.idex = some slot) :
    linkAddress s = slot.pc + 4#32 := by
  simp [linkAddress, instrPc, h]

/-- A word whose MAU row stores is not CSR-class (R90). -/
theorem isCsr_of_storeWidth {cw : Cw} {d : Decoded} {w : Width} (hd : decode cw = .ok d)
    (hw : d.mau.storeWidth = some w) : Cw.isCsr cw = false := by
  by_contra hc
  rw [(decode_memCsr hd _ _).2 ⟨by simpa using hc, rfl, rfl⟩] at hw
  cases hw

/-! ## The statements -/

/-- Settles O48: only the BRU row touches the front end, and only by a correction; the redirect port it
sets reaches the end of the step. -/
theorem onlyCorrectionsTouchTheFrontEnd : Obligations.OnlyCorrectionsTouchTheFrontEnd := by
  intro s t h
  obtain rfl | ⟨slot, d, x, v, hx, hd, hb, hm⟩ := stage_next_units h
  · exact .inl ⟨rfl, rfl, rfl⟩
  · obtain ⟨-, hgb, hgm, -⟩ := decode_groups hd
    obtain ⟨⟨hpc, hifid, hstall⟩, hred⟩ := exec_mau_frontEnd hgm hm
    obtain ⟨y, rfl | ⟨hbr, hne, rfl⟩⟩ := exec_bru_next hgb hb
    · exact .inl ⟨hpc, hifid, hstall⟩
    · have hlink : linkAddress (setResult (beginStep s slot.cw) x) = slot.pc + 4#32 :=
        linkAddress_of_idex hx
      rw [hlink] at hne
      exact .inr ⟨slot, d, x, hx, hd, hbr, hne, hpc, hifid, hstall, hred⟩

/-- Settles O47: no unit changes the step's inputs, and by O48 the front end's latch is kept or emptied. -/
theorem stageKeepsItsInputs : Obligations.StageKeepsItsInputs := by
  intro s t h
  have hifid : t.ifid = s.ifid ∨ t.ifid = none := by
    obtain ⟨-, hk, -⟩ | ⟨_, _, _, -, -, -, -, -, he, -⟩ := onlyCorrectionsTouchTheFrontEnd s t h
    · exact .inl hk
    · exact .inr he
  obtain rfl | ⟨slot, d, x, v, -, -, hb, hm⟩ := stage_next_units h
  · exact ⟨rfl, rfl, rfl, rfl, rfl, rfl, rfl, rfl, hifid⟩
  · obtain ⟨h1, h2, h3, h4, h5, h6, -, h7, h8⟩ :=
      sameInputs_trans (exec_sameInputs hb) (exec_sameInputs hm)
    exact ⟨h1, h2, h3, h4, h5, h6, h7, h8, hifid⟩

/-- Settles O49: memory and console reach the MAU as they stood, a store finds there the parameters of the
step and `rs2Value` as its value, and it leaves its address in the result. -/
theorem memoryAndConsoleChangeOnlyByStores : Obligations.MemoryAndConsoleChangeOnlyByStores := by
  intro s t h
  obtain rfl | ⟨slot, d, x, v, hx, hd, hb, hm⟩ := stage_next_units h
  · exact .inl ⟨rfl, rfl⟩
  · obtain ⟨-, hgb, hgm, -⟩ := decode_groups hd
    obtain ⟨hmem, hcon⟩ : v.mem = s.mem ∧ v.console = s.console := by
      simpa using exec_bru_memory_console hgb hb
    obtain ⟨w, hw, hst⟩ | ⟨req, y, rfl⟩ := exec_mau_next hgm hm
    · obtain ⟨-, -, -, -, -, -, hv2, hcfg, -⟩ := exec_sameInputs hb
      have hval : storeValue v = s.rs2Value :=
        hv2.trans (secondValue_register (isCsr_of_storeWidth hd hw) s)
      rw [setResult_cfg, beginStep_cfg] at hcfg
      have hst := storeAccess_next hst
      rw [hval, hcfg] at hst
      obtain ⟨hin, rfl⟩ | ⟨hout, hadm, rfl⟩ := hst
      · exact .inr ⟨slot, d, w, hx, hd, hw, .inl ⟨hin, hmem, by rw [consoleWrite_console, hcon]⟩⟩
      · exact .inr ⟨slot, d, w, hx, hd, hw, .inr ⟨hout, hadm, hcon, by
          rw [memWrite_mem, hmem, memWrite_result, accessAddress]⟩⟩
    · exact .inl ⟨hmem, hcon⟩

end Sys2Proof.Machine
end

section
/-! PROOF of the memory statements O13, O33, O35, O37 and O56: the invariant, the console window, refused
requests, byte order, and a store before a load. -/

namespace Sys2Proof.Machine

variable {s t : State}

/-! ## The invariant -/

/-- The move to the next cycle touches none of what the invariant speaks of. -/
theorem inv_nextCycle : Inv (nextCycle s) ↔ Inv s := by simp [Inv]

/-- What the stage does to memory keeps it canonical: nothing, or one store (O49). -/
theorem stage_keeps_mem_wf (hm : Memory.wf s.mem = true) (h : stage s = .next t) :
    Memory.wf t.mem = true := by
  obtain ⟨hmem, -⟩ | ⟨_, _, _, -, -, -, ⟨-, hmem, -⟩ | ⟨-, -, -, hmem⟩⟩ :=
    memoryAndConsoleChangeOnlyByStores s t h
  · rwa [hmem]
  · rwa [hmem]
  · rw [hmem]; exact Memory.wf_writeBytes hm _ _

/-- Settles O13: the stage keeps memory canonical, and the parameters and the fault record as they are (O47). -/
theorem stepKeepsSoundness : Obligations.StepKeepsSoundness := by
  intro s t ⟨hmem, hcfg, hfault⟩ h
  obtain ⟨u, hu, rfl⟩ := advance_next.1 h
  obtain ⟨-, -, -, -, -, -, hc, hf, -⟩ := stageKeepsItsInputs s u hu
  exact inv_nextCycle.2 ⟨stage_keeps_mem_wf hmem hu, hc ▸ hcfg, hf.trans hfault⟩

/-! ## The console window -/

theorem inConsole_iff {c : Config} {a : Word} : c.inConsole a = true ↔
    c.coutAddr.toNat ≤ a.toNat ∧ a.toNat < c.coutAddr.toNat + c.coutSize := by
  simp [Config.inConsole]

/-- Zero extension of the low `n` bits is the mask of `n` ones. -/
theorem setWidth_setWidth_eq_and (v : Word) {n : Nat} (hn : n < 32) :
    (v.setWidth n).setWidth 32 = v &&& BitVec.ofNat 32 (2 ^ n - 1) := by
  have hpow : 2 ^ n < 2 ^ 32 := Nat.pow_lt_pow_right (by decide) hn
  have hlow : v.toNat % 2 ^ n < 2 ^ n := Nat.mod_lt _ (Nat.two_pow_pos n)
  apply BitVec.eq_of_toNat_eq
  rw [BitVec.toNat_and, BitVec.toNat_setWidth, BitVec.toNat_setWidth, BitVec.toNat_ofNat,
    Nat.mod_eq_of_lt (hlow.trans hpow), Nat.mod_eq_of_lt ((Nat.sub_le _ _).trans_lt hpow),
    Nat.and_two_pow_sub_one_eq_mod]

theorem zeroExtendFrom_byte (v : Word) : zeroExtendFrom .byte v = v &&& 0xFF#32 :=
  setWidth_setWidth_eq_and v (n := 8) (by decide)

theorem zeroExtendFrom_half (v : Word) : zeroExtendFrom .half v = v &&& 0xFFFF#32 :=
  setWidth_setWidth_eq_and v (n := 16) (by decide)

/-- Settles O33: every store row is `storeAccess` of its width, which in the window asks nothing of memory. -/
theorem consoleStoresAppend : Obligations.ConsoleStoresAppend := by
  intro s hlo hhi
  have hstore (w : Width) : storeAccess w s = .next (consoleWrite s w s.v2) :=
    storeAccess_of_inConsole w (inConsole_iff.2 ⟨hlo, hhi⟩)
  refine ⟨?_, ?_, ?_⟩
  · calc exec .memSb s = .next (consoleWrite s .byte s.v2) := hstore .byte
      _ = _ := by rw [consoleWrite, Width.bytes, littleEndian_byte, zeroExtendFrom_byte]
  · calc exec .memSh s = .next (consoleWrite s .half s.v2) := hstore .half
      _ = _ := by rw [consoleWrite, Width.bytes, littleEndian_half, zeroExtendFrom_half]
  · calc exec .memSw s = .next (consoleWrite s .word s.v2) := hstore .word
      _ = _ := by rw [consoleWrite, Width.bytes, littleEndian_word, zeroExtendFrom]

/-! ## Refused requests -/

theorem loadAccess_of_refused {w : Width} (ext : Width → Word → Word)
    (h : s.cfg.admits (accessAddress s) w .load = false) :
    loadAccess w ext s = .fault (.memoryNotAdmitted (accessAddress s) w .load) := by
  simp [loadAccess, h]

theorem storeAccess_of_refused {w : Width} (hc : s.cfg.inConsole (accessAddress s) = false)
    (h : s.cfg.admits (accessAddress s) w .store = false) :
    storeAccess w s = .fault (.memoryNotAdmitted (accessAddress s) w .store) := by
  simp [storeAccess, hc, h]

/-- Settles O35: every load row is `loadAccess` of its width, every store row `storeAccess`. -/
theorem refusedRequestsStop : Obligations.RefusedRequestsStop := by
  intro s w
  refine ⟨fun h i hi => ?_, fun hc h => ?_⟩
  · cases w with
    | byte | half =>
      obtain rfl | rfl := List.mem_pair.1 hi <;> exact loadAccess_of_refused _ h
    | word =>
      obtain rfl := List.mem_singleton.1 hi
      exact loadAccess_of_refused _ h
  · cases w <;> exact storeAccess_of_refused hc h

/-! ## Byte order -/

theorem readByte_memWrite_at (s : State) (a v : Word) {w : Width} {k : Nat} (hk : k < w.bytes) :
    readByte (memWrite s a w v) (a + BitVec.ofNat 32 k) = v.extractLsb' (8 * k) 8 :=
  readByte_of_read (memWrite_read_at s a w v k hk)

/-- A halfword inside a stored word is its two bytes there, wherever the addresses wrap (D38). -/
theorem memRead_half_memWrite_word (s : State) (a v : Word) {k : Nat} (hk : k + 1 < 4) :
    memRead (memWrite s a .word v) (a + BitVec.ofNat 32 k) .half
      = (v.extractLsb' (8 * k) 16).setWidth 32 := by
  have hnext : a + BitVec.ofNat 32 k + 1#32 = a + BitVec.ofNat 32 (k + 1) := by
    rw [BitVec.ofNat_add, BitVec.add_assoc]
  rw [memRead_half, hnext, readByte_memWrite_at s a v (w := .word) hk,
    readByte_memWrite_at s a v (w := .word) (Nat.lt_of_succ_lt hk), bytes_append_half]

theorem memRead_word_memWrite_word (s : State) (a v : Word) :
    memRead (memWrite s a .word v) a .word = v := by
  have hb : ∀ k < 4, readByte (memWrite s a .word v) (a + BitVec.ofNat 32 k) = v.extractLsb' (8 * k) 8 :=
    fun _ hk => readByte_memWrite_at s a v (w := .word) hk
  have h0 := hb 0 (by decide)
  rw [BitVec.add_zero] at h0
  rw [memRead_word, h0, hb 1 (by decide), hb 2 (by decide), hb 3 (by decide)]
  exact bytes_append_word v

/-- Settles O37: each byte reads back at its place, and neighbouring bytes make up the halves and the word. -/
theorem mixedWidthReadsAreLittleEndian : Obligations.MixedWidthReadsAreLittleEndian := by
  intro s a v
  refine ⟨fun k hk => ?_, ?_, memRead_half_memWrite_word s a v (k := 2) (by decide),
    memRead_word_memWrite_word s a v⟩
  · rw [memRead_byte, readByte_memWrite_at s a v (w := .word) hk]
  · simpa using memRead_half_memWrite_word s a v (k := 0) (by decide)

/-! ## A store before a load -/

/-- What a cycle takes from the schedule. -/
theorem nextCycle_of_env {c : CycleInput} {rest : List CycleInput} (h : s.env = c :: rest) :
    (nextCycle s).idex = c.idex ∧ (nextCycle s).rs1Value = c.rs1Value := by
  simp [nextCycle, h]

/-- The word of a load or store `i` at `rs1Value`: `ADD` of the immediate 0, no branch. -/
def accessAtRs1 (i : Instr) : Decoded :=
  ⟨.aluAdd { AluOperands.zero with s2Imm := true }, .brNone, i, 0#5, 0#5⟩

theorem decode_storeWord : decode (encode (accessAtRs1 .memSw)) = .ok (accessAtRs1 .memSw) := by decide

theorem decode_loadWord : decode (encode (accessAtRs1 .memLw)) = .ok (accessAtRs1 .memLw) := by decide

/-- The first two units of such a word only hand `rs1Value` to the MAU as the address. -/
theorem runUnits_accessAtRs1 (i : Instr) (s : State) :
    runUnits (accessAtRs1 i) s = exec i (setResult s s.rs1Value) := by
  have halu : exec (accessAtRs1 i).alu s = .next (setResult s (s.rs1Value + 0#32)) := rfl
  have hbru (u : State) : exec (accessAtRs1 i).bru u = .next u := rfl
  rw [runUnits, halu, andThen_of_next, hbru, andThen_of_next, BitVec.add_zero, accessAtRs1]

/-- The stage on such a word is its MAU row at that address. -/
theorem stage_accessAtRs1 {i : Instr} {slot : Slot} (h : Holds s slot (accessAtRs1 i))
    (hi : exec i (setResult (beginStep s slot.cw) s.rs1Value) = .next t) : stage s = .next t := by
  rw [stage_of_holds h, commit_next, runUnits_accessAtRs1, beginStep_rs1Value, hi]

/-- A store word at `rs1Value`, in memory: it writes `rs2Value` there and delivers the address (R192). -/
theorem stage_storeWord {slot : Slot} (h : Holds s slot (accessAtRs1 .memSw))
    (hc : s.cfg.inConsole s.rs1Value = false)
    (ha : s.cfg.admits s.rs1Value .word .store = true) :
    stage s = .next (memWrite (setResult (beginStep s slot.cw) s.rs1Value)
      s.rs1Value .word s.rs2Value) := by
  obtain ⟨-, -, hd⟩ := id h
  have hv : storeValue (setResult (beginStep s slot.cw) s.rs1Value) = s.rs2Value :=
    secondValue_register (isCsr_of_storeWidth (w := .word) hd rfl) s
  rw [← hv]
  exact stage_accessAtRs1 h (storeAccess_of_admits hc ha)

/-- A load word at `rs1Value` delivers the word there (R184). -/
theorem stage_loadWord {slot : Slot} (h : Holds s slot (accessAtRs1 .memLw))
    (ha : s.cfg.admits s.rs1Value .word .load = true) :
    ∃ t, stage s = .next t ∧ t.result = memRead s s.rs1Value .word :=
  ⟨_, stage_accessAtRs1 h (loadAccess_of_admits _ ha), memRead_congr rfl _ _⟩

/-- Settles O56: the load finds the memory that the store left and the same address, and reads the word back. -/
theorem storedWordIsLoadedNextCycle : Obligations.StoredWordIsLoadedNextCycle := by
  intro s c rest p q m n hf hx henv hcx hr1 hc has hal
  have hstore := stage_storeWord ⟨hf, hx, decode_storeWord⟩ hc has
  set u := memWrite (setResult (beginStep s (encode (accessAtRs1 .memSw))) s.rs1Value)
    s.rs1Value .word s.rs2Value with hu
  obtain ⟨hidex, hrs1⟩ := nextCycle_of_env (s := u) henv
  have haddr : (nextCycle u).rs1Value = s.rs1Value := hrs1.trans hr1
  obtain ⟨t, ht, hres⟩ := stage_loadWord (s := nextCycle u)
    ⟨by simpa [hu] using hf, hidex.trans hcx, decode_loadWord⟩ (by rw [haddr]; simpa [hu] using hal)
  refine ⟨_, _, advance_next.2 ⟨_, hstore, rfl⟩, by simp, advance_next.2 ⟨_, ht, rfl⟩, ?_⟩
  calc (nextCycle t).result = memRead (nextCycle u) (nextCycle u).rs1Value .word := by
        rw [nextCycle_result, hres]
    _ = memRead u s.rs1Value .word := by rw [haddr, memRead_congr (nextCycle_mem u)]
    _ = s.rs2Value := memRead_word_memWrite_word _ _ _

end Sys2Proof.Machine
end

section
/-! PROOF of O59, the parameter that no step reads: every operation commutes with setting it. -/

namespace Sys2Proof.Machine

variable {s : State}

/-! ## The outcomes of the CSR path and of the stage, case by case -/

/-- A read that the gate denies ends the CSR path (R215). -/
theorem csrAccess_of_unlisted {a : CsrAddr} (h : s.cfg.csrAddr.lookup a = none) :
    csrAccess a s = raise (.csrReadDenied a) s := by
  simp [csrAccess, csrRead, h]

/-- An unchanged value is not written, so the gate has no say over it (R193). -/
theorem csrAccess_of_unchanged {a : CsrAddr} {n : CsrName} (h : s.cfg.csrAddr.lookup a = some n)
    (hv : s.result = s.v2) : csrAccess a s = .next (setResult s s.v2) := by
  simp [csrAccess, csrRead_of_lookup h, hv]

/-- A changed value for a counter half is denied (R218). -/
theorem csrAccess_of_counter {a : CsrAddr} {n : CsrName} (h : s.cfg.csrAddr.lookup a = some n)
    (hn : n.isControl = false) (hv : s.result ≠ s.v2) :
    csrAccess a s = raise (.csrWriteDenied a s.result) s := by
  simp [csrAccess, csrRead_of_lookup h, csrWrite, h, hn, hv]

/-- With an empty latch no state changes (R240). -/
theorem stage_of_empty (hf : s.fault = none) (hx : s.idex = none) : stage s = .next s := by
  simp [stage, hf, hx]

/-- A word that the decoder refuses is refused by the stage (R90). -/
theorem stage_of_decode_error {slot : Slot} {e : DecodeError} (hf : s.fault = none)
    (hx : s.idex = some slot) (hd : decode slot.cw = .error e) :
    stage s = .refused (.notWellFormed e) := by
  simp [stage, hf, hx, hd]

/-! ## Changing every state of an outcome -/

/-- An outcome with every state in it changed by `g`. -/
def mapOutcome (g : State → State) :
    Host.Outcome State Fault Refusal → Host.Outcome State Fault Refusal
  | .next t => .next (g t)
  | .fault (.internal f t) => .fault (.internal f (g t))
  | .fault (.memoryNotAdmitted a w k) => .fault (.memoryNotAdmitted a w k)
  | .refused r => .refused r

theorem andThen_mapOutcome {g : State → State} {k : State → Host.Outcome State Fault Refusal}
    (hk : ∀ s, k (g s) = mapOutcome g (k s)) (o : Host.Outcome State Fault Refusal) :
    andThen (mapOutcome g o) k = mapOutcome g (andThen o k) := by
  match o with
  | .next s => exact hk s
  | .fault (.internal _ _) | .fault (.memoryNotAdmitted _ _ _) | .refused _ => rfl

theorem commit_mapOutcome {g : State → State} (hg : ∀ f, recordFault (g s) f = g (recordFault s f))
    (o : Host.Outcome State Fault Refusal) :
    commit (g s) (mapOutcome g o) = mapOutcome g (commit s o) := by
  match o with
  | .fault (.internal f _) => simp only [mapOutcome, commit, hg]
  | .next _ | .fault (.memoryNotAdmitted _ _ _) | .refused _ => rfl

/-! ## Every operation commutes with setting the parameter -/

/-- `s` with another value of `FETCH_SEES_STORES`. -/
def setFetchSees (b : Bool) (s : State) : State :=
  { s with cfg := { s.cfg with fetchSeesStores := b } }

variable (b : Bool)

theorem correctIf_setFetchSees (taken exempt : Bool) (s : State) :
    correctIf taken exempt (setFetchSees b s) = setFetchSees b (correctIf taken exempt s) := by
  rw [correctIf, correctIf, apply_ite (setFetchSees b)]
  rfl

theorem callJump_setFetchSees (exempt : Bool) (s : State) :
    callJump exempt (setFetchSees b s) = mapOutcome (setFetchSees b) (callJump exempt s) := by
  rw [callJump, correctIf_setFetchSees]
  rfl

theorem conditional_setFetchSees (taken : Bool) (s : State) :
    conditional taken (setFetchSees b s) = mapOutcome (setFetchSees b) (conditional taken s) := by
  rw [conditional, correctIf_setFetchSees]
  rfl

theorem loadAccess_setFetchSees (w : Width) (ext : Width → Word → Word) (s : State) :
    loadAccess w ext (setFetchSees b s) = mapOutcome (setFetchSees b) (loadAccess w ext s) := by
  cases ha : s.cfg.admits (accessAddress s) w .load with
  | false =>
    rw [loadAccess_of_refused ext ha]
    exact loadAccess_of_refused ext ha
  | true =>
    have hread : memRead s (accessAddress s) w = memRead (setFetchSees b s) (accessAddress s) w :=
      memRead_congr (s := setFetchSees b s) (t := s) rfl _ _
    rw [loadAccess_of_admits ext ha, hread]
    exact loadAccess_of_admits ext ha

theorem storeAccess_setFetchSees (w : Width) (s : State) :
    storeAccess w (setFetchSees b s) = mapOutcome (setFetchSees b) (storeAccess w s) := by
  cases hc : s.cfg.inConsole (accessAddress s) with
  | true =>
    rw [storeAccess_of_inConsole w hc]
    exact storeAccess_of_inConsole w hc
  | false =>
    cases ha : s.cfg.admits (accessAddress s) w .store with
    | true =>
      rw [storeAccess_of_admits hc ha]
      exact storeAccess_of_admits hc ha
    | false =>
      rw [storeAccess_of_refused hc ha]
      exact storeAccess_of_refused hc ha

theorem csrAccess_setFetchSees (a : CsrAddr) (s : State) :
    csrAccess a (setFetchSees b s) = mapOutcome (setFetchSees b) (csrAccess a s) := by
  cases hl : s.cfg.csrAddr.lookup a with
  | none =>
    rw [csrAccess_of_unlisted hl]
    exact csrAccess_of_unlisted hl
  | some n =>
    by_cases hv : s.result = s.v2
    · rw [csrAccess_of_unchanged hl hv]
      exact csrAccess_of_unchanged hl hv
    · cases hn : n.isControl with
      | true =>
        rw [csrAccess_of_control hl hn]
        exact csrAccess_of_control hl hn
      | false =>
        rw [csrAccess_of_counter hl hn hv]
        exact csrAccess_of_counter hl hn hv

/-- Only a correction, a request's test and the CSR gate branch on the state; the other rows commute by
computation. -/
theorem exec_setFetchSees (i : Instr) (s : State) :
    exec i (setFetchSees b s) = mapOutcome (setFetchSees b) (exec i s) := by
  cases i with
  | brJal | brJalr => exact callJump_setFetchSees b _ s
  | brBeq | brBne | brBlt | brBge | brBltu | brBgeu => exact conditional_setFetchSees b _ s
  | memLb | memLh | memLw | memLbu | memLhu => exact loadAccess_setFetchSees b _ _ s
  | memSb | memSh | memSw => exact storeAccess_setFetchSees b _ s
  | memCsr _ a => exact csrAccess_setFetchSees b a s
  | _ => rfl

theorem runUnits_setFetchSees (d : Decoded) (s : State) :
    runUnits d (setFetchSees b s) = mapOutcome (setFetchSees b) (runUnits d s) := by
  rw [runUnits, runUnits, exec_setFetchSees, andThen_mapOutcome]
  intro u
  rw [exec_setFetchSees, andThen_mapOutcome (exec_setFetchSees b d.mau)]

theorem beginStep_setFetchSees (cw : Cw) (s : State) :
    beginStep (setFetchSees b s) cw = setFetchSees b (beginStep s cw) := rfl

theorem stage_setFetchSees (s : State) :
    stage (setFetchSees b s) = mapOutcome (setFetchSees b) (stage s) := by
  cases hf : s.fault with
  | some f =>
    rw [stage_of_fault hf]
    exact stage_of_fault hf
  | none =>
    cases hx : s.idex with
    | none =>
      rw [stage_of_empty hf hx]
      exact stage_of_empty hf hx
    | some slot =>
      cases hd : decode slot.cw with
      | error e =>
        rw [stage_of_decode_error hf hx hd]
        exact stage_of_decode_error hf hx hd
      | ok d =>
        rw [stage_of_holds ⟨hf, hx, hd⟩, ← commit_mapOutcome fun _ => rfl, ← runUnits_setFetchSees]
        exact stage_of_holds ⟨hf, hx, hd⟩

/-- Settles O59: the outcome from the changed state is the outcome with its state changed. -/
theorem fetchSeesStoresIsNotRead : Obligations.FetchSeesStoresIsNotRead := fun s b =>
  ⟨fun _ h => (stage_setFetchSees b s).trans (congrArg (mapOutcome (setFetchSees b)) h),
    fun _ _ h => (stage_setFetchSees b s).trans (congrArg (mapOutcome (setFetchSees b)) h)⟩

end Sys2Proof.Machine
end

section
/-! PROOF of the encoding statements O1 to O6 and O10: the fields of an encoded word, the row each field names,
the words the decoder accepts, and the opcode table. -/

namespace Sys2Proof

/-! ## The fields of an encoded word (R80) -/

/-- Each summand of R80 is a digit of the encoded word's number. -/
theorem encode_digits (d : Decoded) :
    (encode d).toNat / 2 ^ 0 % 2 ^ 4 = d.alu.aluTag ∧
      (encode d).toNat / 2 ^ 4 % 2 ^ 4 = d.bru.brTag ∧
      (encode d).toNat / 2 ^ 8 % 2 ^ 6 = d.mau.memBits ∧
      (encode d).toNat / 2 ^ 14 % 2 ^ 4 = d.alu.operands.flagBits ∧
      (encode d).toNat / 2 ^ 18 % 2 ^ 5 = d.alu.operands.rs1Idx.toNat ∧
      (encode d).toNat / 2 ^ 23 % 2 ^ 5 = d.rs2Idx.toNat ∧
      (encode d).toNat / 2 ^ 28 % 2 ^ 5 = d.rdIdx.toNat ∧
      (encode d).toNat / 2 ^ 33 % 2 ^ 32 = d.alu.operands.imm.toNat := by
  have halu := aluTag_le d.alu
  have hbr := brTag_le d.bru
  have hmem := memBits_le d.mau
  have hflags := flagBits_le d.alu.operands
  have hrs1 := d.alu.operands.rs1Idx.isLt
  have hrs2 := d.rs2Idx.isLt
  have hrd := d.rdIdx.isLt
  have himm := d.alu.operands.imm.isLt
  rw [encode_toNat]
  omega

/-- The four flags of R81 are the binary digits of `flagBits`. -/
theorem flagBits_digits (o : AluOperands) :
    o.flagBits % 2 = o.s1Pc.toNat ∧ o.flagBits / 2 % 2 = o.s1Idx.toNat ∧
      o.flagBits / 4 % 2 = o.s1Inv.toNat ∧ o.flagBits / 8 % 2 = o.s2Imm.toNat := by
  have hpc := Bool.toNat_le o.s1Pc
  have hidx := Bool.toNat_le o.s1Idx
  have hinv := Bool.toNat_le o.s1Inv
  have himm := Bool.toNat_le o.s2Imm
  rw [AluOperands.flagBits]
  omega

/-- A field of known digit. -/
theorem extractLsb'_of_digit {n k l : Nat} {w : BitVec n} {x : BitVec l}
    (h : w.toNat / 2 ^ k % 2 ^ l = x.toNat) : w.extractLsb' k l = x :=
  BitVec.eq_of_toNat_eq ((extractLsb'_toNat_eq w k l).trans h)

theorem extractLsb'_eq_ofNat {n k l a : Nat} {w : BitVec n} (h : w.toNat / 2 ^ k % 2 ^ l = a) :
    w.extractLsb' k l = BitVec.ofNat l a :=
  extractLsb'_of_digit (by rw [BitVec.toNat_ofNat, ← h, Nat.mod_mod])

/-- A bit of known digit. -/
theorem getLsbD_of_digit {n k : Nat} {w : BitVec n} {b : Bool} (h : w.toNat / 2 ^ k % 2 = b.toNat) :
    w.getLsbD k = b := by
  rw [getLsbD_eq_digit, h]
  cases b <;> rfl

theorem aluOp_encode (d : Decoded) : Cw.aluOp (encode d) = BitVec.ofNat 4 d.alu.aluTag := by
  obtain ⟨h, -⟩ := encode_digits d
  exact extractLsb'_eq_ofNat h

theorem brOp_encode (d : Decoded) : Cw.brOp (encode d) = BitVec.ofNat 4 d.bru.brTag := by
  obtain ⟨-, h, -⟩ := encode_digits d
  exact extractLsb'_eq_ofNat h

/-- Bits 13:8, the class flags above the selector. -/
theorem memField_encode (d : Decoded) :
    (encode d).extractLsb' 8 6 = BitVec.ofNat 6 d.mau.memBits := by
  obtain ⟨-, -, h, -⟩ := encode_digits d
  exact extractLsb'_eq_ofNat h

theorem rs2Idx_encode (d : Decoded) : Cw.rs2Idx (encode d) = d.rs2Idx := by
  obtain ⟨-, -, -, -, -, h, -⟩ := encode_digits d
  exact extractLsb'_of_digit h

theorem rdIdx_encode (d : Decoded) : Cw.rdIdx (encode d) = d.rdIdx := by
  obtain ⟨-, -, -, -, -, -, h, -⟩ := encode_digits d
  exact extractLsb'_of_digit h

theorem imm_encode (d : Decoded) : Cw.imm (encode d) = d.alu.operands.imm := by
  obtain ⟨-, -, -, -, -, -, -, h⟩ := encode_digits d
  exact extractLsb'_of_digit h

theorem operands_encode (d : Decoded) : Cw.operands (encode d) = d.alu.operands := by
  obtain ⟨-, -, -, hflags, hidx, -⟩ := encode_digits d
  obtain ⟨hpc, hlit, hinv, himm⟩ := flagBits_digits d.alu.operands
  rw [Cw.operands, getLsbD_of_digit (b := d.alu.operands.s1Pc) (by omega),
    getLsbD_of_digit (b := d.alu.operands.s1Idx) (by omega),
    getLsbD_of_digit (b := d.alu.operands.s1Inv) (by omega),
    getLsbD_of_digit (b := d.alu.operands.s2Imm) (by omega), extractLsb'_of_digit hidx, imm_encode]

/-! ## The row a field names -/

theorem decodeAlu_aluTag {i : Instr} (h : i.group = .alu) :
    decodeAlu (BitVec.ofNat 4 i.aluTag) i.operands = i := by
  cases i with
  | aluNone | aluAdd | aluSub | aluAnd | aluOr | aluXor | aluSll | aluSrl | aluSra | aluLt | aluLtu
  | aluReserved11 | aluReserved12 | aluReserved13 | aluReserved14 | aluReserved15 => rfl
  | _ => cases h

theorem decodeBru_brTag {i : Instr} (h : i.group = .bru) :
    decodeBru (BitVec.ofNat 4 i.brTag) = i := by
  cases i with
  | brNone | brJal | brJalr | brBeq | brBne | brBlt | brBge | brBltu | brBgeu | brReserved9
  | brReserved10 | brReserved11 | brReserved12 | brReserved13 | brReserved14 | brReserved15 => rfl
  | _ => cases h

/-- The class flags and the selector are the bits of the field 13:8. -/
theorem memField_bits (w : Cw) :
    Cw.isLoad w = (w.extractLsb' 8 6).getLsbD 3 ∧ Cw.isStore w = (w.extractLsb' 8 6).getLsbD 4 ∧
      Cw.isCsr w = (w.extractLsb' 8 6).getLsbD 5 ∧
      Cw.fsel w = (w.extractLsb' 8 6).extractLsb' 0 3 := by
  simp only [BitVec.getLsbD_extractLsb']
  refine ⟨rfl, rfl, rfl, ?_⟩
  exact extractLsb'_of_digit (by simp only [extractLsb'_toNat_eq]; omega)

theorem csrClass_bits (f : BitVec 3) :
    (BitVec.ofNat 6 (32 + f.toNat)).getLsbD 3 = false ∧
      (BitVec.ofNat 6 (32 + f.toNat)).getLsbD 4 = false ∧
      (BitVec.ofNat 6 (32 + f.toNat)).getLsbD 5 = true ∧
      (BitVec.ofNat 6 (32 + f.toNat)).extractLsb' 0 3 = f := by
  revert f; decide

theorem noClass_bits (f : BitVec 3) :
    (BitVec.ofNat 6 f.toNat).getLsbD 3 = false ∧ (BitVec.ofNat 6 f.toNat).getLsbD 4 = false ∧
      (BitVec.ofNat 6 f.toNat).getLsbD 5 = false ∧ (BitVec.ofNat 6 f.toNat).extractLsb' 0 3 = f := by
  revert f; decide

/-- A word with a MAU row's bits 13:8, and with its address where it is the CSR row, has that row. -/
theorem decodeMau_of_memField {w : Cw} {i : Instr} (hg : i.group = .mau)
    (hc : i.carriedBy (Cw.imm w) = true) (hb : w.extractLsb' 8 6 = BitVec.ofNat 6 i.memBits) :
    decodeMau w = .ok i := by
  obtain ⟨hl, hs, hr, hf⟩ := memField_bits w
  rw [decodeMau, hl, hs, hr, hf, hb]
  cases i with
  | memLb | memLh | memLw | memLbu | memLhu | memLoadReserved3 | memLoadReserved6
  | memLoadReserved7 | memSb | memSh | memSw | memStoreReserved3 | memStoreReserved4
  | memStoreReserved5 | memStoreReserved6 | memStoreReserved7 => rfl
  | memCsr f a =>
    obtain ⟨hl, hs, hr, hf⟩ := csrClass_bits f
    have ha : a = Cw.csrAddr w := eq_of_beq hc
    rw [Instr.memBits, hl, hs, hr, hf, ha]
  | memNone f =>
    obtain ⟨hl, hs, hr, hf⟩ := noClass_bits f
    rw [Instr.memBits, hl, hs, hr, hf]
  | _ => cases hg

/-! ## The round trips -/

theorem wellFormed_iff (d : Decoded) : d.wellFormed = true ↔
    d.alu.group = .alu ∧ d.bru.group = .bru ∧ d.mau.group = .mau ∧
      (d.bru = .brNone ∨ d.mau.isMemNone = true) ∧ d.mau.carriedBy d.alu.operands.imm = true := by
  simp only [Decoded.wellFormed, Bool.and_eq_true, Bool.or_eq_true, beq_iff_eq, and_assoc]

/-- The decoder accepts a word with a MAU row and no class flag beside a branch tag (R90). -/
theorem decode_of_mau {w : Cw} {m : Instr} (hm : decodeMau w = .ok m)
    (hx : Cw.brOp w = 0#4 ∨ m.isMemNone = true) :
    decode w = .ok { alu := decodeAlu (Cw.aluOp w) (Cw.operands w), bru := decodeBru (Cw.brOp w),
                     mau := m, rs2Idx := Cw.rs2Idx w, rdIdx := Cw.rdIdx w } := by
  simp only [decode, hm, if_pos hx]

/-- Settles O2: each field of the encoding is the row's tag, and each decoder inverts its tag. -/
theorem decodeOfEncode : Obligations.DecodeOfEncode := by
  intro d hd
  obtain ⟨ha, hb, hm, hx, hc⟩ := (wellFormed_iff d).1 hd
  have hmau : decodeMau (encode d) = .ok d.mau :=
    decodeMau_of_memField hm (by rw [imm_encode]; exact hc) (memField_encode d)
  have hclass : Cw.brOp (encode d) = 0#4 ∨ d.mau.isMemNone = true :=
    hx.imp_left fun h => by rw [brOp_encode, h]; rfl
  rw [decode_of_mau hmau hclass, aluOp_encode, brOp_encode, operands_encode, rs2Idx_encode,
    rdIdx_encode, decodeAlu_aluTag ha, decodeBru_brTag hb]

/-- An accepted word decodes to a well-formed decoded word (R88, R90). -/
theorem decode_wellFormed {w : Cw} {d : Decoded} (h : decode w = .ok d) : d.wellFormed = true := by
  obtain ⟨ha, hb, hm, hx⟩ := decode_groups h
  obtain ⟨m, hmau, -, rfl⟩ := decode_ok h
  obtain ⟨-, -, hc, -⟩ := decodeMau_spec hmau
  have ho : (decodeAlu (Cw.aluOp w) (Cw.operands w)).operands = Cw.operands w := (decodeAlu_spec _ _).2.1
  exact (wellFormed_iff _).2 ⟨ha, hb, hm, hx, by rw [ho]; exact hc⟩

/-- The tags of an accepted word's rows are its fields. -/
theorem decode_tags {w : Cw} {d : Decoded} (h : decode w = .ok d) :
    d.alu.aluTag = w.toNat % 16 ∧ d.bru.brTag = w.toNat / 16 % 16 ∧
      d.mau.memBits = w.toNat / 256 % 64 ∧ d.alu.operands = Cw.operands w := by
  obtain ⟨m, hm, -, rfl⟩ := decode_ok h
  obtain ⟨ha, ho, -⟩ := decodeAlu_spec (Cw.aluOp w) (Cw.operands w)
  obtain ⟨hb, -⟩ := decodeBru_spec (Cw.brOp w)
  obtain ⟨hmem, -⟩ := decodeMau_spec hm
  rw [Cw.aluOp, extractLsb'_toNat_eq, pow_zero, Nat.div_one] at ha
  rw [Cw.brOp, extractLsb'_toNat_eq] at hb
  exact ⟨ha, hb, hmem, ho⟩

/-- The flags of R81 are bits 17:14. -/
theorem flagBits_operands (w : Cw) : (Cw.operands w).flagBits = w.toNat / 2 ^ 14 % 16 := by
  have hpc := digit_of_getLsbD w 14 _ rfl
  have hidx := digit_of_getLsbD w 15 _ rfl
  have hinv := digit_of_getLsbD w 16 _ rfl
  have himm := digit_of_getLsbD w 17 _ rfl
  simp only [Cw.operands, AluOperands.flagBits]
  omega

/-- The number of a word is the sum of its fields, as R80 lays them out. -/
theorem toNat_eq_sum_fields (w : Cw) :
    w.toNat = w.toNat % 16 + w.toNat / 16 % 16 * 2 ^ 4 + w.toNat / 256 % 64 * 2 ^ 8
      + (Cw.operands w).flagBits * 2 ^ 14 + (Cw.operands w).rs1Idx.toNat * 2 ^ 18
      + (Cw.rs2Idx w).toNat * 2 ^ 23 + (Cw.rdIdx w).toNat * 2 ^ 28
      + (Cw.operands w).imm.toNat * 2 ^ 33 := by
  have hw := w.isLt
  rw [flagBits_operands]
  simp only [Cw.operands, Cw.rs2Idx, Cw.rdIdx, Cw.imm, extractLsb'_toNat_eq]
  omega

/-- Settles O3: the encoder's sum for the rows of an accepted word is the sum of the word's own fields. -/
theorem encodeOfDecode : Obligations.EncodeOfDecode := by
  intro w d h
  refine ⟨decode_wellFormed h, BitVec.eq_of_toNat_eq ?_⟩
  obtain ⟨ha, hb, hm, ho⟩ := decode_tags h
  obtain ⟨_, _, _, rfl⟩ := decode_ok h
  rw [encode_toNat, ha, hb, hm, ho, ← toNat_eq_sum_fields]

/-! ## The words the decoder accepts (R90) -/

/-- No two class flags stand in a word that has a MAU row, and every other word has one. -/
theorem decodeMau_accepts_iff (w : Cw) : (∃ m, decodeMau w = .ok m) ↔
    ¬ ((Cw.isLoad w = true ∧ Cw.isStore w = true) ∨ (Cw.isLoad w = true ∧ Cw.isCsr w = true) ∨
      (Cw.isStore w = true ∧ Cw.isCsr w = true)) := by
  unfold decodeMau
  split <;> simp_all

/-- The class-less row is the row of the words without a class flag. -/
theorem decodeMau_isMemNone {w : Cw} {m : Instr} (h : decodeMau w = .ok m) :
    m.isMemNone = true ↔ ¬ (Cw.isLoad w = true ∨ Cw.isStore w = true ∨ Cw.isCsr w = true) := by
  obtain ⟨hl, hs, hc, rfl⟩ | ⟨hl, hs, hc, rfl⟩ | ⟨hl, hs, hc, rfl⟩ | ⟨hl, hs, hc, rfl⟩ := decodeMau_ok h
  · obtain ⟨-, -, hnone, -⟩ := decodeLoad_spec (Cw.fsel w)
    simp [hl, hnone]
  · obtain ⟨-, -, hnone, -⟩ := decodeStore_spec (Cw.fsel w)
    simp [hs, hnone]
  · simp [hc, Instr.isMemNone]
  · simp [hl, hs, hc, Instr.isMemNone]

/-- Settles O4: two class flags are refused by the MAU decoder, a flag beside a branch tag after it. -/
theorem decoderAcceptsExactlyWellFormedWords : Obligations.DecoderAcceptsExactlyWellFormedWords := by
  intro w
  constructor
  · rintro ⟨d, h⟩
    obtain ⟨m, hm, hx, -⟩ := decode_ok h
    have hpair := (decodeMau_accepts_iff w).1 ⟨m, hm⟩
    rw [decodeMau_isMemNone hm, Cw.brOp] at hx
    tauto
  · intro h
    obtain ⟨m, hm⟩ := (decodeMau_accepts_iff w).2 (by tauto)
    have hx : Cw.brOp w = 0#4 ∨ m.isMemNone = true := by
      rw [decodeMau_isMemNone hm, Cw.brOp]
      tauto
    exact ⟨_, decode_of_mau hm hx⟩

/-- At most one of four conditions holds where none of the pairs that R90 excludes does. -/
theorem sum_le_one_iff_no_pair (b l s c : Bool) : b.toNat + l.toNat + s.toNat + c.toNat ≤ 1 ↔
    ¬ ((l = true ∧ s = true) ∨ (l = true ∧ c = true) ∨ (s = true ∧ c = true) ∨
      (b = true ∧ (l = true ∨ s = true ∨ c = true))) := by
  revert b l s c; decide

theorem decode_accepts_iff_wellFormed (w : Cw) :
    (∃ d, decode w = .ok d) ↔ Cw.wellFormed w = true := by
  rw [decoderAcceptsExactlyWellFormedWords w, Cw.wellFormed, decide_eq_true_iff,
    sum_le_one_iff_no_pair, bne_iff_ne, Cw.brOp]

namespace Machine

/-- Settles O10: the decoder refuses the word before any unit sees a tag of it. -/
theorem illFormedWordsAreRefused : Obligations.IllFormedWordsAreRefused := by
  intro s slot hf hx hw
  cases hd : decode slot.cw with
  | ok d =>
    have hwf := (decode_accepts_iff_wellFormed slot.cw).1 ⟨d, hd⟩
    rw [hw] at hwf
    cases hwf
  | error e => exact ⟨e, by rw [step, stage_of_decode_error hf hx hd, advance]⟩

end Machine

/-! ## The opcode table -/

/-- A masked word is the field under the mask, in its place. -/
theorem and_fieldMask {n : Nat} (w m : BitVec n) (k l : Nat) (hm : m.toNat = (2 ^ l - 1) <<< k) :
    (w &&& m).toNat = w.toNat / 2 ^ k % 2 ^ l * 2 ^ k := by
  rw [BitVec.toNat_and, hm, ← Nat.shiftRight_eq_div_pow, ← Nat.and_two_pow_sub_one_eq_mod,
    ← Nat.shiftLeft_eq]
  apply Nat.eq_of_testBit_eq
  intro j
  simp only [Nat.testBit_and, Nat.testBit_shiftLeft, Nat.testBit_shiftRight]
  by_cases h : k ≤ j <;> simp [h]

/-- The table's mask and match of an ALU row. -/
theorem alu_tableRow {i : Instr} (h : i.group = .alu) :
    i.rowMask = 0xF#65 ∧ i.rowMatch = BitVec.ofNat 65 i.aluTag := by
  cases i with
  | aluNone | aluAdd | aluSub | aluAnd | aluOr | aluXor | aluSll | aluSrl | aluSra | aluLt | aluLtu
  | aluReserved11 | aluReserved12 | aluReserved13 | aluReserved14 | aluReserved15 => exact ⟨rfl, rfl⟩
  | _ => cases h

/-- The table's mask and match of a BRU row. -/
theorem bru_tableRow {i : Instr} (h : i.group = .bru) :
    i.rowMask = 0xF0#65 ∧ i.rowMatch = BitVec.ofNat 65 (i.brTag * 2 ^ 4) := by
  cases i with
  | brNone | brJal | brJalr | brBeq | brBne | brBlt | brBge | brBltu | brBgeu | brReserved9
  | brReserved10 | brReserved11 | brReserved12 | brReserved13 | brReserved14 | brReserved15 =>
    exact ⟨rfl, rfl⟩
  | _ => cases h

/-- Bits 13:8 name a load or a store, whose table row fixes the selector; the other MAU rows ignore it
(R89). -/
def FixesSelector (b : Nat) : Prop := b / 8 = 1 ∨ b / 8 = 2

/-- Bits 13:8 that select one MAU row of the table: equal class flags, and for a load or a store equal
selectors. -/
def SameMauRow (b c : Nat) : Prop := b / 8 = c / 8 ∧ (FixesSelector b → b = c)

/-- The table's mask and match of a MAU row. -/
theorem mau_tableRow {i : Instr} (h : i.group = .mau) :
    (FixesSelector i.memBits ∧ i.rowMask = 0x3F00#65 ∧
      i.rowMatch = BitVec.ofNat 65 (i.memBits * 2 ^ 8)) ∨
    (¬ FixesSelector i.memBits ∧ i.rowMask = 0x3800#65 ∧
      i.rowMatch = BitVec.ofNat 65 (i.memBits / 8 * 2 ^ 11)) := by
  cases i with
  | memLb | memLh | memLw | memLbu | memLhu | memLoadReserved3 | memLoadReserved6
  | memLoadReserved7 => exact .inl ⟨.inl rfl, rfl, rfl⟩
  | memSb | memSh | memSw | memStoreReserved3 | memStoreReserved4 | memStoreReserved5
  | memStoreReserved6 | memStoreReserved7 => exact .inl ⟨.inr rfl, rfl, rfl⟩
  | memCsr f _ =>
    have hf : (32 + f.toNat) / 8 = 4 := by omega
    rw [Instr.memBits, FixesSelector, hf]
    exact .inr ⟨by decide, rfl, rfl⟩
  | memNone f =>
    have hf : f.toNat / 8 = 0 := by omega
    rw [Instr.memBits, FixesSelector, hf]
    exact .inr ⟨by decide, rfl, rfl⟩
  | _ => cases h

variable {w : Cw} {i j : Instr}

theorem matches_alu_iff (h : i.group = .alu) :
    w &&& i.rowMask = i.rowMatch ↔ i.aluTag = w.toNat % 16 := by
  have htag := aluTag_le i
  have hfield := and_fieldMask w 0xF#65 0 4 rfl
  obtain ⟨hmask, hmatch⟩ := alu_tableRow h
  rw [hmask, hmatch, ← BitVec.toNat_inj, hfield, BitVec.toNat_ofNat]
  omega

theorem matches_bru_iff (h : i.group = .bru) :
    w &&& i.rowMask = i.rowMatch ↔ i.brTag = w.toNat / 16 % 16 := by
  have htag := brTag_le i
  have hfield := and_fieldMask w 0xF0#65 4 4 rfl
  obtain ⟨hmask, hmatch⟩ := bru_tableRow h
  rw [hmask, hmatch, ← BitVec.toNat_inj, hfield, BitVec.toNat_ofNat]
  omega

theorem matches_mau_iff (h : i.group = .mau) :
    w &&& i.rowMask = i.rowMatch ↔ SameMauRow i.memBits (w.toNat / 256 % 64) := by
  have hbits := memBits_le i
  obtain ⟨hf, hmask, hmatch⟩ | ⟨hf, hmask, hmatch⟩ := mau_tableRow h
  · have hfield := and_fieldMask w 0x3F00#65 8 6 rfl
    rw [hmask, hmatch, ← BitVec.toNat_inj, hfield, BitVec.toNat_ofNat, SameMauRow, forall_prop_of_true hf]
    omega
  · have hfield := and_fieldMask w 0x3800#65 11 3 rfl
    rw [hmask, hmatch, ← BitVec.toNat_inj, hfield, BitVec.toNat_ofNat, SameMauRow,
      forall_prop_of_false hf, and_true]
    omega

/-- Bits that select one MAU row have its mask and match. -/
theorem mau_tableRow_congr (hi : i.group = .mau) (hj : j.group = .mau)
    (h : SameMauRow i.memBits j.memBits) : i.rowMatch = j.rowMatch ∧ i.rowMask = j.rowMask := by
  obtain ⟨hclass, hsel⟩ := h
  have hfix : FixesSelector i.memBits ↔ FixesSelector j.memBits := by
    rw [FixesSelector, FixesSelector, hclass]
  obtain ⟨hf, hmask, hmatch⟩ | ⟨hf, hmask, hmatch⟩ := mau_tableRow hi <;>
    obtain ⟨hf', hmask', hmatch'⟩ | ⟨hf', hmask', hmatch'⟩ := mau_tableRow hj
  · exact ⟨by rw [hmatch, hmatch', hsel hf], by rw [hmask, hmask']⟩
  · exact absurd (hfix.1 hf) hf'
  · exact absurd (hfix.2 hf') hf
  · exact ⟨by rw [hmatch, hmatch', hclass], by rw [hmask, hmask']⟩

/-- Settles O5: a row of a group matches where the word's field is the row's tag, and the tag fixes mask and
match. -/
theorem decodedRowsMatchTheTable : Obligations.DecodedRowsMatchTheTable := by
  intro w d h
  obtain ⟨hga, hgb, hgm, -⟩ := decode_groups h
  obtain ⟨ha, hb, hm, -⟩ := decode_tags h
  refine ⟨⟨(matches_alu_iff hga).2 ha, (matches_bru_iff hgb).2 hb,
    (matches_mau_iff hgm).2 ⟨by rw [hm], fun _ => hm⟩⟩,
    fun i hi => ⟨fun hg => ?_, fun hg => ?_, fun hg => ?_⟩⟩
  · obtain ⟨hmask, hmatch⟩ := alu_tableRow hg
    obtain ⟨hmask', hmatch'⟩ := alu_tableRow hga
    rw [hmask, hmatch, hmask', hmatch', (matches_alu_iff hg).1 hi, ha]
    exact ⟨rfl, rfl⟩
  · obtain ⟨hmask, hmatch⟩ := bru_tableRow hg
    obtain ⟨hmask', hmatch'⟩ := bru_tableRow hgb
    rw [hmask, hmatch, hmask', hmatch', (matches_bru_iff hg).1 hi, hb]
    exact ⟨rfl, rfl⟩
  · exact mau_tableRow_congr hg hgm (by rw [hm]; exact (matches_mau_iff hg).1 hi)

/-! ## The word of a row alone, and the words of the spec -/

/-- A row alone in a word gives a well-formed decoded word. -/
theorem asDecoded_wellFormed (i : Instr) : i.asDecoded.wellFormed = true := by
  cases i with
  | memCsr f a => exact (Laws.RowWord.memCsr f a).1
  | _ => rfl

/-- A row alone in a word names it, but for the two rows that share the word of zeros with `ALU.NONE`. -/
theorem principal_asDecoded (hb : i ≠ .brNone) (hm : i.isMemNone = false) :
    i.asDecoded.principal = i := by
  cases i with
  | brNone => exact absurd rfl hb
  | memNone => cases hm
  | _ => rfl

theorem decodeTableWord_toNat (w : Cw) {d : Decoded} (h : decode w = .ok d) :
    decodeTableWord 65 w.toNat = some d.principal := by
  rw [decodeTableWord, Nat.mod_eq_of_lt w.isLt, if_pos w.isLt, BitVec.ofNat_toNat, BitVec.setWidth_eq, h]

/-- Settles O6, by O2 for the row alone in its word. -/
theorem rowWordsNameTheirRow : Obligations.RowWordsNameTheirRow := by
  intro i hb hm
  rw [encodeInstr, decodeTableWord_toNat _ (decodeOfEncode _ (asDecoded_wellFormed i)),
    principal_asDecoded hb hm]

/-- Settles O1, word by word. -/
theorem specWordsDecode : Obligations.SpecWordsDecode :=
  ⟨by decide, by decide, by decide, by decide, by decide, by decide⟩

end Sys2Proof
end

section
/-! PROOF of O53 and O54: the word of zeros, and what no step reads of its word. -/

namespace Sys2Proof.Machine

variable {s : State}

/-! ## The word of zeros -/

/-- Settles O53: the three rows `NONE` deliver the parameter, and the word is not CSR-class. -/
theorem nopStep : Obligations.NopStep := by
  intro s pc uid hf hx
  obtain ⟨hd, -⟩ := specWordsDecode
  have hv : secondValue s 0#65 = s.rs2Value := secondValue_register (by decide) s
  rw [stage_of_holds ⟨hf, hx, hd⟩, beginStep, hv]
  rfl

/-! ## The index fields and the identifier -/

/-- `s` with another word and another identifier for the instruction in the latch, at the same address. -/
def relabel (cw : Cw) (uid : Nat) (s : State) : State :=
  { s with idex := s.idex.map fun slot => { slot with cw := cw, uid := uid } }

section
variable (cw : Cw) (uid : Nat)

@[simp] theorem instrPc_relabel (s : State) : instrPc (relabel cw uid s) = instrPc s := by
  cases h : s.idex with
  | none | some => simp [instrPc, relabel, h]

theorem aluCompute_relabel (f : Word → Word → Word) (o : AluOperands) (s : State) :
    aluCompute f o (relabel cw uid s) = mapOutcome (relabel cw uid) (aluCompute f o s) := by
  have hfirst : firstOperand o (relabel cw uid s) = firstOperand o s := by
    rw [firstOperand, firstOperand, selectFirst, selectFirst, instrPc_relabel]
    rfl
  rw [aluCompute, hfirst]
  rfl

theorem correctIf_relabel (taken exempt : Bool) (s : State) :
    correctIf taken exempt (relabel cw uid s) = relabel cw uid (correctIf taken exempt s) := by
  have hlink : linkAddress (relabel cw uid s) = linkAddress s := by
    rw [linkAddress, instrPc_relabel, linkAddress]
  rw [correctIf, correctIf, apply_ite (relabel cw uid), hlink]
  rfl

theorem callJump_relabel (exempt : Bool) (s : State) :
    callJump exempt (relabel cw uid s) = mapOutcome (relabel cw uid) (callJump exempt s) := by
  rw [callJump, correctIf_relabel, linkAddress, instrPc_relabel]
  rfl

theorem conditional_relabel (taken : Bool) (s : State) :
    conditional taken (relabel cw uid s) = mapOutcome (relabel cw uid) (conditional taken s) := by
  rw [conditional, correctIf_relabel]
  rfl

theorem loadAccess_relabel (w : Width) (ext : Width → Word → Word) (s : State) :
    loadAccess w ext (relabel cw uid s) = mapOutcome (relabel cw uid) (loadAccess w ext s) := by
  have hread : memRead (relabel cw uid s) (accessAddress s) w = memRead s (accessAddress s) w :=
    memRead_congr (s := s) (t := relabel cw uid s) rfl _ _
  rw [loadAccess, loadAccess, apply_ite (mapOutcome (relabel cw uid)), ← hread]
  rfl

theorem storeAccess_relabel (w : Width) (s : State) :
    storeAccess w (relabel cw uid s) = mapOutcome (relabel cw uid) (storeAccess w s) := by
  rw [storeAccess, storeAccess, apply_ite (mapOutcome (relabel cw uid)),
    apply_ite (mapOutcome (relabel cw uid))]
  rfl

theorem csrAccess_relabel (a : CsrAddr) (s : State) :
    csrAccess a (relabel cw uid s) = mapOutcome (relabel cw uid) (csrAccess a s) := by
  cases hl : s.cfg.csrAddr.lookup a with
  | none =>
    rw [csrAccess_of_unlisted hl]
    exact csrAccess_of_unlisted hl
  | some n =>
    by_cases hv : s.result = s.v2
    · rw [csrAccess_of_unchanged hl hv]
      exact csrAccess_of_unchanged hl hv
    · cases hn : n.isControl with
      | true =>
        rw [csrAccess_of_control hl hn]
        exact csrAccess_of_control hl hn
      | false =>
        rw [csrAccess_of_counter hl hn hv]
        exact csrAccess_of_counter hl hn hv

/-- A row reads the latch for the instruction's address only. -/
theorem exec_relabel (i : Instr) (s : State) :
    exec i (relabel cw uid s) = mapOutcome (relabel cw uid) (exec i s) := by
  cases i with
  | aluAdd | aluSub | aluAnd | aluOr | aluXor | aluSll | aluSrl | aluSra | aluLt | aluLtu =>
    rw [exec, exec]
    exact aluCompute_relabel cw uid _ _ s
  | brJal | brJalr => exact callJump_relabel cw uid _ s
  | brBeq | brBne | brBlt | brBge | brBltu | brBgeu => exact conditional_relabel cw uid _ s
  | memLb | memLh | memLw | memLbu | memLhu => exact loadAccess_relabel cw uid _ _ s
  | memSb | memSh | memSw => exact storeAccess_relabel cw uid _ s
  | memCsr _ a => exact csrAccess_relabel cw uid a s
  | _ => rfl

theorem runUnits_relabel (d : Decoded) (s : State) :
    runUnits d (relabel cw uid s) = mapOutcome (relabel cw uid) (runUnits d s) := by
  rw [runUnits, runUnits, exec_relabel, andThen_mapOutcome]
  intro u
  rw [exec_relabel, andThen_mapOutcome (exec_relabel cw uid d.mau)]

end

theorem beginStep_relabel (w cw : Cw) (uid : Nat) (s : State) :
    beginStep (relabel cw uid s) w = relabel cw uid (beginStep s w) := rfl

/-- A word's second operand value comes from its MAU row and its immediate (R243). -/
theorem secondValue_encode_congr {d e : Decoded} (halu : e.alu = d.alu) (hmau : e.mau = d.mau)
    (s : State) : secondValue s (encode e) = secondValue s (encode d) := by
  have hcsr : Cw.isCsr (encode e) = Cw.isCsr (encode d) := by
    obtain ⟨-, -, he, -⟩ := memField_bits (encode e)
    obtain ⟨-, -, hd, -⟩ := memField_bits (encode d)
    rw [he, hd, memField_encode, memField_encode, hmau]
  have haddr : Cw.csrAddr (encode e) = Cw.csrAddr (encode d) := by
    rw [Cw.csrAddr, Cw.csrAddr, imm_encode, imm_encode, halu]
  rw [secondValue, secondValue, hcsr, haddr]

theorem commit_internal {t : State} {f : InternalFault} {o : Host.Outcome State Fault Refusal}
    (h : commit s o = .fault (.internal f t)) : t = recordFault s f := by
  match o with
  | .fault (.internal _ _) => cases h; rfl
  | .next _ | .fault (.memoryNotAdmitted _ _ _) | .refused _ => cases h

/-- An internal fault leaves the state before the step with the record set, also where it is answered again
(R244, R266). -/
theorem stage_internal {t : State} {f : InternalFault} (h : stage s = .fault (.internal f t)) :
    t = recordFault s f := by
  cases hf : s.fault with
  | some g =>
    rw [stage_of_fault hf] at h
    cases h
    rw [recordFault, ← hf]
  | none =>
    cases hx : s.idex with
    | none =>
      rw [stage_of_empty hf hx] at h
      cases h
    | some slot =>
      cases hd : decode slot.cw with
      | error e =>
        rw [stage_of_decode_error hf hx hd] at h
        cases h
      | ok d =>
        rw [stage_of_holds ⟨hf, hx, hd⟩] at h
        exact commit_internal h

/-- The stage on a word and on one with the same three rows: the outcomes differ in the latch alone. -/
theorem stage_relabel {d e : Decoded} {pc : Word} {uid : Nat} (hd : d.wellFormed = true)
    (he : e.wellFormed = true) (halu : e.alu = d.alu) (hbru : e.bru = d.bru) (hmau : e.mau = d.mau)
    (hx : s.idex = some ⟨encode d, pc, uid⟩) (uid' : Nat) :
    stage (relabel (encode e) uid' s) = mapOutcome (relabel (encode e) uid') (stage s) := by
  cases hf : s.fault with
  | some f =>
    rw [stage_of_fault hf]
    exact stage_of_fault hf
  | none =>
    have hholds : Holds (relabel (encode e) uid' s) ⟨encode e, pc, uid'⟩ e :=
      ⟨hf, by rw [relabel, hx]; rfl, decodeOfEncode e he⟩
    have hrun : runUnits e = runUnits d := by
      funext u
      rw [runUnits, runUnits, halu, hbru, hmau]
    have hbegin : beginStep (relabel (encode e) uid' s) (encode e)
        = relabel (encode e) uid' (beginStep s (encode d)) := by
      rw [beginStep_relabel, beginStep, beginStep, secondValue_encode_congr halu hmau]
    rw [stage_of_holds hholds, stage_of_holds ⟨hf, hx, decodeOfEncode d hd⟩,
      ← commit_mapOutcome fun _ => rfl, ← runUnits_relabel, hrun, hbegin]

theorem relabel_of_idex {cw : Cw} {slot : Slot} (hx : s.idex = some slot) (uid : Nat) :
    relabel cw uid s = { s with idex := some ⟨cw, slot.pc, uid⟩ } := by
  rw [relabel, hx]
  rfl

/-- Settles O54: another value of the fields gives a word with the same rows, and the stage leaves its latch
alone. -/
theorem indexFieldsAndIdentifierAreIgnored : Obligations.IndexFieldsAndIdentifierAreIgnored := by
  intro s d pc uid uid' x y hd hx slot'
  have he : ({ d with rs2Idx := x, rdIdx := y } : Decoded).wellFormed = true :=
    (wellFormed_iff _).2 ((wellFormed_iff d).1 hd)
  have hlatch (t : State) (ht : t.idex = s.idex) :
      relabel slot'.cw uid' t = { t with idex := some slot' } := relabel_of_idex (ht.trans hx) uid'
  have hstage : stage (relabel slot'.cw uid' s) = mapOutcome (relabel slot'.cw uid') (stage s) :=
    stage_relabel hd he rfl rfl rfl hx uid'
  rw [hlatch s rfl] at hstage
  refine ⟨fun t h => ?_, fun f t h => ?_⟩
  · obtain ⟨hidex, -⟩ := stageKeepsItsInputs s t h
    rw [hstage, h, mapOutcome, hlatch t hidex]
  · have hidex : t.idex = s.idex := by rw [stage_internal h, recordFault_idex]
    rw [hstage, h, mapOutcome, hlatch t hidex]

end Sys2Proof.Machine
end

section
/-! PROOF of the ALU statements O14 to O23, O45 and O57: what each row computes and what it leaves alone. -/

namespace Sys2Proof

/-! ## The row an ALU tag selects -/

/-- An accepted word's ALU row is the one of its tag and operand fields (R84, R88). -/
theorem decode_alu {w : Cw} {d : Decoded} (h : decode w = .ok d) :
    d.alu = decodeAlu (Cw.aluOp w) (Cw.operands w) := by
  obtain ⟨m, -, -, rfl⟩ := decode_ok h
  rfl

/-- Two tags do not share an ALU row, since the row gives its tag back. -/
theorem decodeAlu_tag_inj {t u : BitVec 4} {o : AluOperands} (h : decodeAlu t o = decodeAlu u o) :
    t = u := by
  obtain ⟨ht, -⟩ := decodeAlu_spec t o
  obtain ⟨hu, -⟩ := decodeAlu_spec u o
  exact BitVec.eq_of_toNat_eq (by rw [← ht, ← hu, h])

/-- A tag selects the row its decoder answers, and no other tag does. -/
theorem selectedByAluTag_of_decodeAlu {t : BitVec 4} {mk : AluOperands → Instr}
    (h : ∀ o, decodeAlu t o = mk o) : SelectedByAluTag t mk := by
  intro w d hd
  rw [decode_alu hd, ← h]
  exact ⟨fun ht => by rw [ht], decodeAlu_tag_inj⟩

namespace Machine

variable {s t : State} {i : Instr} {o p : AluOperands}

/-! ## The operands -/

/-- Settles O14: the two selection flags, in the order of R120. -/
theorem firstOperandSelection : Obligations.FirstOperandSelection := by
  intro o s
  refine ⟨fun hpc => ?_, fun hpc hidx => ?_, fun hpc hidx => ?_⟩
  · simp [selectFirst, hpc]
  · simp only [selectFirst, hpc, hidx, Bool.false_eq_true, if_false, if_true]
    exact BitVec.toNat_setWidth_of_le (by decide)
  · simp [selectFirst, hpc, hidx]

theorem firstOperand_of_inverted (h : o.s1Inv = true) (s : State) :
    firstOperand o s = ~~~ selectFirst o s := if_pos h

/-- Settles O15: the complement of a word, as a number and bit by bit. -/
theorem firstOperandInversion : Obligations.FirstOperandInversion := by
  intro o s
  refine ⟨fun h => ?_, fun h => by simp [firstOperand, h]⟩
  rw [firstOperand_of_inverted h]
  exact ⟨BitVec.toNat_not, fun k hk => by simp [hk]⟩

/-- Settles O57: one flag chooses, and nothing is inverted. -/
theorem secondOperandSelection : Obligations.SecondOperandSelection := fun _ _ =>
  ⟨fun h => if_pos h, fun h => by simp [secondOperand, h]⟩

/-! ## What the rows compute -/

/-- Settles O22: the row hands on the parameter. -/
theorem aluNoneReadsNoOperand : Obligations.AluNoneReadsNoOperand := fun _ _ =>
  ⟨rfl, fun h => ⟨_, rfl, h⟩⟩

/-- A word's number is its signed reading modulo 2^32. -/
theorem toNat_eq_toInt_emod (x : Word) : x.toNat = (x.toInt % 2 ^ 32).toNat := by
  conv_lhs => rw [← BitVec.ofInt_toInt (x := x), BitVec.toNat_ofInt]
  rfl

theorem sub_toNat_eq_toInt_sub_emod (x y : Word) :
    (x - y).toNat = ((x.toInt - y.toInt) % 2 ^ 32).toNat := by
  rw [toNat_eq_toInt_emod, BitVec.toInt_sub]
  congr 1
  exact Int.bmod_emod

/-- Subtraction is the addition of the complement and 1 (R125). -/
theorem sub_eq_add_not_add_one (x y : Word) : x - y = x + ~~~ y + 1#32 := by
  rw [BitVec.sub_eq_add_neg, BitVec.neg_eq_not_add, BitVec.add_assoc]

/-- Settles O16: word addition and subtraction, read as numbers. -/
theorem addAndSubtract : Obligations.AddAndSubtract := by
  refine ⟨selectedByAluTag_of_decodeAlu fun _ => rfl, selectedByAluTag_of_decodeAlu fun _ => rfl,
    fun o s => ⟨?_, ?_⟩⟩
  · exact ⟨firstOperand o s + secondOperand o s, rfl, BitVec.toNat_add _ _⟩
  · exact ⟨firstOperand o s - secondOperand o s, rfl, sub_toNat_eq_toInt_sub_emod _ _,
      sub_eq_add_not_add_one _ _⟩

/-- Settles O17: the word operations, bit by bit. -/
theorem bitwiseOperations : Obligations.BitwiseOperations := by
  refine ⟨selectedByAluTag_of_decodeAlu fun _ => rfl, selectedByAluTag_of_decodeAlu fun _ => rfl,
    selectedByAluTag_of_decodeAlu fun _ => rfl, fun o s => ⟨?_, ?_, ?_⟩⟩
  · exact ⟨firstOperand o s &&& secondOperand o s, rfl, fun _ _ => BitVec.getLsbD_and⟩
  · exact ⟨firstOperand o s ||| secondOperand o s, rfl, fun _ _ => BitVec.getLsbD_or⟩
  · exact ⟨firstOperand o s ^^^ secondOperand o s, rfl, fun _ _ => BitVec.getLsbD_xor⟩

/-- Settles O18: a shift by the amount of R129 is a product, or a quotient, by its power of 2. -/
theorem logicalShifts : Obligations.LogicalShifts := by
  refine ⟨selectedByAluTag_of_decodeAlu fun _ => rfl, selectedByAluTag_of_decodeAlu fun _ => rfl,
    fun o s => ⟨?_, ?_⟩⟩
  · refine ⟨firstOperand o s <<< shiftAmount (secondOperand o s), rfl, ?_⟩
    rw [BitVec.toNat_shiftLeft, Nat.shiftLeft_eq, shiftAmount_eq]
  · refine ⟨firstOperand o s >>> shiftAmount (secondOperand o s), rfl, ?_⟩
    rw [BitVec.toNat_ushiftRight, Nat.shiftRight_eq_div_pow, shiftAmount_eq]

/-- Settles O19: the integer quotient by a positive number rounds toward minus infinity. -/
theorem arithmeticShift : Obligations.ArithmeticShift := by
  refine ⟨selectedByAluTag_of_decodeAlu fun _ => rfl, fun o s =>
    ⟨(firstOperand o s).sshiftRight (shiftAmount (secondOperand o s)), rfl, ?_⟩⟩
  rw [BitVec.toInt_sshiftRight, Int.shiftRight_eq_div_pow, shiftAmount_eq]
  norm_cast

theorem boolWord_signedLess (a b : Word) :
    boolWord (signedLess a b) = if a.toInt < b.toInt then 1#32 else 0#32 := by
  simp [boolWord, signedLess, BitVec.slt]

theorem boolWord_unsignedLess (a b : Word) :
    boolWord (unsignedLess a b) = if a.toNat < b.toNat then 1#32 else 0#32 := by
  simp [boolWord, unsignedLess, BitVec.ult]

/-- Settles O20: each row hands on its comparison's outcome as a word. -/
theorem lessThanOperations : Obligations.LessThanOperations := by
  refine ⟨selectedByAluTag_of_decodeAlu fun _ => rfl, selectedByAluTag_of_decodeAlu fun _ => rfl,
    fun o s => ⟨?_, ?_⟩⟩
  · rw [← boolWord_signedLess]
    rfl
  · rw [← boolWord_unsignedLess]
    rfl

/-! ## The shift amount -/

/-- An operation that reads its second operand through the shift amount alone. -/
theorem aluCompute_shift_congr (f : Word → Nat → Word) (h₁ : firstOperand p s = firstOperand o s)
    (h₂ : shiftAmount (secondOperand p s) = shiftAmount (secondOperand o s)) :
    aluCompute (fun a b => f a (shiftAmount b)) p s
      = aluCompute (fun a b => f a (shiftAmount b)) o s := by
  rw [aluCompute, aluCompute, h₁, h₂]

/-- Settles O21: each shift reads its second operand through `shiftAmount`, which is the remainder by 32. -/
theorem shiftAmountIsModulo32 : Obligations.ShiftAmountIsModulo32 := by
  intro o s x hx
  refine ⟨by rw [shiftAmount_eq]; exact Nat.mod_lt _ (by decide), fun p h₁ h₂ => ?_⟩
  have hsh : shiftAmount (secondOperand p s) = shiftAmount (secondOperand o s) := by
    rw [shiftAmount_eq, shiftAmount_eq, h₂, hx]
  exact ⟨aluCompute_shift_congr (· <<< ·) h₁ hsh, aluCompute_shift_congr (· >>> ·) h₁ hsh,
    aluCompute_shift_congr BitVec.sshiftRight h₁ hsh⟩

/-! ## The reserved tags -/

/-- The row of a reserved tag raises that tag, on every operand record and state (R135). -/
theorem exec_decodeAlu_reserved {k : BitVec 4} (hk : 11 ≤ k.toNat) (o : AluOperands) (s : State) :
    exec (decodeAlu k o) s = raise (.badAluTag k) s := by
  obtain ⟨n, hn, rfl⟩ : ∃ n < 16, k = BitVec.ofNat 4 n := ⟨k.toNat, k.isLt, by simp⟩
  rw [BitVec.toNat_ofNat, Nat.mod_eq_of_lt hn] at hk
  interval_cases n <;> rfl

/-- A fault raised by the ALU row ends the step before the other units act (R244, R245). -/
theorem step_of_alu_raise {slot : Slot} {d : Decoded} {f : InternalFault} (hs : Holds s slot d)
    (ha : exec d.alu (beginStep s slot.cw) = raise f (beginStep s slot.cw)) :
    step s = .fault (.internal f (recordFault s f)) := by
  rw [step, stage_of_holds hs, runUnits, ha]
  rfl

/-- Settles O23: the word's ALU row is that of its reserved tag, and the ALU is the first unit of the step. -/
theorem reservedAluTagsFault : Obligations.ReservedAluTagsFault := by
  refine ⟨fun o s => ⟨rfl, rfl, rfl, rfl, rfl⟩, fun s slot d hs htag => ?_⟩
  have ⟨_, _, hd⟩ := hs
  apply step_of_alu_raise hs
  rw [decode_alu hd]
  exact exec_decodeAlu_reserved htag _ _

/-! ## The frame of the rows that do not store -/

/-- A row that is no store leaves memory, the console and the console port alone. -/
theorem exec_memory_console_of_not_store (hw : i.storeWidth = none) (h : exec i s = .next t) :
    t.mem = s.mem ∧ t.console = s.console ∧ t.cout = s.cout := by
  cases hg : i.group with
  | alu =>
    obtain ⟨x, rfl⟩ := exec_alu_next hg h
    exact ⟨rfl, rfl, rfl⟩
  | bru => obtain ⟨x, rfl | ⟨-, -, rfl⟩⟩ := exec_bru_next hg h <;> exact ⟨rfl, rfl, rfl⟩
  | mau =>
    obtain ⟨w, hsome, -⟩ | ⟨req, x, rfl⟩ := exec_mau_next hg h
    · rw [hw] at hsome
      cases hsome
    · exact ⟨rfl, rfl, rfl⟩

/-- Only a BRU row touches the front end and the redirect port (R163). -/
theorem exec_frontEnd_of_not_bru (hb : i.group ≠ .bru) (h : exec i s = .next t) :
    SameFrontEnd s t ∧ t.redirect = s.redirect := by
  cases hg : i.group with
  | alu =>
    obtain ⟨x, rfl⟩ := exec_alu_next hg h
    exact ⟨⟨rfl, rfl, rfl⟩, rfl⟩
  | bru => exact absurd hg hb
  | mau => exact exec_mau_frontEnd hg h

/-- A MAU row that neither loads nor stores makes no memory request (R193, R194). -/
theorem exec_mau_memReq (hg : i.group = .mau) (hw : i.storeWidth = none)
    (hl : i ∉ [Instr.memLb, .memLh, .memLw, .memLbu, .memLhu]) (h : exec i s = .next t) :
    t.memReq = s.memReq := by
  cases i with
  | memLb | memLh | memLw | memLbu | memLhu => simp at hl
  | memSb | memSh | memSw => cases hw
  | memCsr fsel a =>
    cases csrAccess_next h
    rfl
  | memNone => cases h; rfl
  | memLoadReserved3 | memLoadReserved6 | memLoadReserved7 | memStoreReserved3
  | memStoreReserved4 | memStoreReserved5 | memStoreReserved6 | memStoreReserved7 => cases h
  | _ => cases hg

/-- A row that neither loads nor stores makes no memory request. -/
theorem exec_memReq_of_no_access (hw : i.storeWidth = none)
    (hl : i ∉ [Instr.memLb, .memLh, .memLw, .memLbu, .memLhu]) (h : exec i s = .next t) :
    t.memReq = s.memReq := by
  cases hg : i.group with
  | alu =>
    obtain ⟨x, rfl⟩ := exec_alu_next hg h
    rfl
  | bru => obtain ⟨x, rfl | ⟨-, -, rfl⟩⟩ := exec_bru_next hg h <;> rfl
  | mau => exact exec_mau_memReq hg hw hl h

/-- Settles O45: each part of the frame, and with the memory list every byte read from it. -/
theorem nonStoringFrame : Obligations.NonStoringFrame := by
  intro i s t hw h
  obtain ⟨hmem, hcon, hcout⟩ := exec_memory_console_of_not_store hw h
  exact ⟨fun a => readByte_congr (by rw [hmem]), hmem, hcon, exec_sameInputs h, hcout,
    fun hb => exec_frontEnd_of_not_bru hb h, fun hl => exec_memReq_of_no_access hw hl h⟩

end Machine

end Sys2Proof
end

section
/-! PROOF of the branch statements O24 to O29: the row a branch tag selects, the one form of the correction,
and the reserved tags. -/

namespace Sys2Proof

/-! ## The row a branch tag selects -/

/-- An accepted word's BRU row is the one of its tag (R85, R88). -/
theorem decode_bru {w : Cw} {d : Decoded} (h : decode w = .ok d) : d.bru = decodeBru (Cw.brOp w) := by
  obtain ⟨m, -, -, rfl⟩ := decode_ok h
  rfl

/-- Two tags do not share a BRU row, since the row gives its tag back. -/
theorem decodeBru_tag_inj {t u : BitVec 4} (h : decodeBru t = decodeBru u) : t = u := by
  obtain ⟨ht, -⟩ := decodeBru_spec t
  obtain ⟨hu, -⟩ := decodeBru_spec u
  exact BitVec.eq_of_toNat_eq (by rw [← ht, ← hu, h])

/-- A tag selects the row its decoder answers, and no other tag does. -/
theorem selectedByBrTag_decodeBru (t : BitVec 4) : SelectedByBrTag t (decodeBru t) := by
  intro w d hd
  rw [decode_bru hd]
  exact ⟨fun ht => by rw [ht], decodeBru_tag_inj⟩

namespace Machine

variable {s : State}

/-- Settles O24: each of the two rows answers the state it was given. -/
theorem passThroughRows : Obligations.PassThroughRows :=
  ⟨selectedByBrTag_decodeBru 0#4, fun _ _ => ⟨rfl, rfl⟩⟩

/-! ## The call/jump kinds -/

/-- The exempt kind never redirects (R164). -/
theorem correctIf_of_exempt (taken : Bool) (s : State) : correctIf taken true s = s := by
  simp [correctIf]

/-- A taken branch that is not exempt redirects away from the sequential address, and only then (R163). -/
theorem correctIf_of_checked (s : State) :
    correctIf true false s = if s.result = linkAddress s then s else Redirected s s.result := by
  simp [correctIf, correct, Redirected]

/-- The exempt call/jump kind delivers the link address and changes nothing else. -/
theorem callJump_of_exempt (s : State) :
    callJump true s = .next { s with result := linkAddress s } := by
  rw [callJump, correctIf_of_exempt, setResult]

/-- The checked call/jump kind redirects before it delivers the link address. -/
theorem callJump_of_checked (s : State) :
    callJump false s = .next
      { (if s.result = linkAddress s then s else Redirected s s.result) with result := linkAddress s } := by
  rw [callJump, correctIf_of_checked, setResult]

/-- Settles O25: either value of the parameter makes one kind exempt and the other checked. -/
theorem callJumpsLink : Obligations.CallJumpsLink := by
  refine ⟨selectedByBrTag_decodeBru 1#4, selectedByBrTag_decodeBru 2#4, fun s =>
    ⟨linkAddress s, linkAddress_toNat s, fun hjal => ?_, fun hjalr => ?_⟩⟩
  · rw [← callJump_of_exempt, ← callJump_of_checked]
    simp only [exec, execBrJal, execBrJalr, hjal]
    exact ⟨rfl, rfl⟩
  · rw [← callJump_of_exempt, ← callJump_of_checked]
    simp only [exec, execBrJal, execBrJalr, hjalr]
    exact ⟨rfl, rfl⟩

/-! ## The conditional kinds -/

theorem result_ne_linkAddress_iff :
    s.result ≠ linkAddress s ↔ s.result.toNat ≠ ((instrPc s).toNat + 4) % 2 ^ 32 := by
  rw [← linkAddress_toNat, BitVec.toNat_ne]

/-- A conditional kind whose predicate decides `P` redirects exactly where `P` holds and the target is not the
sequential address (R163, R165 to R167). -/
theorem conditional_eq_next {taken : Bool} {P : Prop} [Decidable P] (h : taken = true ↔ P) :
    conditional taken s = .next (if P ∧ s.result.toNat ≠ ((instrPc s).toNat + 4) % 2 ^ 32
      then Redirected s s.result else s) := by
  simp only [← h, ← result_ne_linkAddress_iff]
  cases taken with
  | false => simp [conditional, correctIf]
  | true => simp [conditional, correctIf_of_checked]

theorem takenEq_iff : takenEq s = true ↔ s.rs1Value.toNat = s.rs2Value.toNat := by
  rw [takenEq, beq_iff_eq, BitVec.toNat_eq]

theorem takenNe_iff : takenNe s = true ↔ s.rs1Value.toNat ≠ s.rs2Value.toNat := by
  rw [takenNe, bne_iff_ne, BitVec.toNat_ne]

theorem takenLt_iff : takenLt s = true ↔ s.rs1Value.toInt < s.rs2Value.toInt := by
  rw [takenLt, signedLess, BitVec.slt_iff_toInt_lt]

theorem takenGe_iff : takenGe s = true ↔ s.rs1Value.toInt ≥ s.rs2Value.toInt := by
  rw [takenGe, Bool.not_eq_true', ← Bool.not_eq_true, ← takenLt, takenLt_iff, not_lt]

theorem takenLtu_iff : takenLtu s = true ↔ s.rs1Value.toNat < s.rs2Value.toNat := by
  rw [takenLtu, unsignedLess, BitVec.ult_iff_lt, BitVec.lt_def]

theorem takenGeu_iff : takenGeu s = true ↔ s.rs1Value.toNat ≥ s.rs2Value.toNat := by
  rw [takenGeu, Bool.not_eq_true', ← Bool.not_eq_true, ← takenLtu, takenLtu_iff, not_lt]

/-- Settles O26: equality of words is equality of their numbers. -/
theorem equalityBranches : Obligations.EqualityBranches :=
  ⟨selectedByBrTag_decodeBru 3#4, selectedByBrTag_decodeBru 4#4, fun _ =>
    ⟨conditional_eq_next takenEq_iff, conditional_eq_next takenNe_iff⟩⟩

/-- Settles O27: the predicates compare the signed readings. -/
theorem signedBranches : Obligations.SignedBranches :=
  ⟨selectedByBrTag_decodeBru 5#4, selectedByBrTag_decodeBru 6#4, fun _ =>
    ⟨conditional_eq_next takenLt_iff, conditional_eq_next takenGe_iff⟩⟩

/-- Settles O28: the predicates compare the unsigned readings. -/
theorem unsignedBranches : Obligations.UnsignedBranches :=
  ⟨selectedByBrTag_decodeBru 7#4, selectedByBrTag_decodeBru 8#4, fun _ =>
    ⟨conditional_eq_next takenLtu_iff, conditional_eq_next takenGeu_iff⟩⟩

/-! ## The reserved tags -/

/-- The ALU tags up to 10 are the defined ones (R84). -/
theorem decodeAlu_isReserved_eq_false {k : BitVec 4} (hk : k.toNat ≤ 10) (o : AluOperands) :
    (decodeAlu k o).isReserved = false := by
  obtain ⟨n, hn, rfl⟩ : ∃ n < 16, k = BitVec.ofNat 4 n := ⟨k.toNat, k.isLt, by simp⟩
  rw [BitVec.toNat_ofNat, Nat.mod_eq_of_lt hn] at hk
  interval_cases n <;> rfl

/-- The row of a reserved tag raises that tag, on every state (R151). -/
theorem exec_decodeBru_reserved {k : BitVec 4} (hk : 9 ≤ k.toNat) (s : State) :
    exec (decodeBru k) s = raise (.badBranchTag k) s := by
  obtain ⟨n, hn, rfl⟩ : ∃ n < 16, k = BitVec.ofNat 4 n := ⟨k.toNat, k.isLt, by simp⟩
  rw [BitVec.toNat_ofNat, Nat.mod_eq_of_lt hn] at hk
  interval_cases n <;> rfl

/-- A fault raised by the BRU row, after an ALU row that completes, ends the step before the MAU acts, and what
the ALU handed on is not committed (R244, R245). -/
theorem step_of_bru_raise {t : State} {slot : Slot} {d : Decoded} {f : InternalFault} (hs : Holds s slot d)
    (ha : exec d.alu (beginStep s slot.cw) = .next t) (hb : exec d.bru t = raise f t) :
    step s = .fault (.internal f (recordFault s f)) := by
  rw [step, stage_of_holds hs, runUnits, ha, andThen_of_next, hb]
  rfl

/-- Settles O29: the word's ALU row is a defined one and completes, and its BRU row is that of its reserved tag. -/
theorem reservedBranchTagsFault : Obligations.ReservedBranchTagsFault := by
  refine ⟨fun s => ⟨rfl, rfl, rfl, rfl, rfl, rfl, rfl⟩, fun s slot d hs halu hbr => ?_⟩
  have ⟨_, _, hd⟩ := hs
  obtain ⟨hg, -⟩ := decode_groups hd
  have hr : d.alu.isReserved = false := by
    rw [decode_alu hd]
    exact decodeAlu_isReserved_eq_false halu _
  obtain ⟨v, ha⟩ := exec_alu_completes hg hr (beginStep s slot.cw)
  apply step_of_bru_raise hs ha
  rw [decode_bru hd]
  exact exec_decodeBru_reserved hbr _

end Machine

end Sys2Proof
end

section
/-! PROOF of the memory-access statements O30, O31, O32, O34, O36, O40, O46 and O50: the row a selector names,
what a load delivers, what a store writes and leaves alone, and the ports of one step. -/

namespace Sys2Proof

/-! ## The row that bits 13:8 select -/

/-- An accepted word's MAU row is the one its class flags and selector name (R87, R88). -/
theorem decode_mau {w : Cw} {d : Decoded} (h : decode w = .ok d) : decodeMau w = .ok d.mau := by
  obtain ⟨m, hm, -, rfl⟩ := decode_ok h
  exact hm

/-- A MAU row that carries no address is selected by its own bits 13:8. -/
theorem selectedByMemBits_of_memBits {i : Instr} {n : Nat} (hn : i.memBits = n) (hg : i.group = .mau)
    (hc : ∀ imm, i.carriedBy imm = true) : SelectedByMemBits (BitVec.ofNat 6 n) i := by
  subst hn
  intro w d hd
  have hm := decode_mau hd
  constructor
  · intro hb
    exact Except.ok.inj (hm.symm.trans (decodeMau_of_memField hg (hc _) hb))
  · rintro rfl
    obtain ⟨hbits, -⟩ := decodeMau_spec hm
    exact extractLsb'_eq_ofNat hbits.symm

/-- A word with a class flag is no branch (R90). -/
theorem bru_eq_brNone_of_class {w : Cw} {d : Decoded} (hd : decode w = .ok d)
    (h : Cw.isLoad w = true ∨ Cw.isStore w = true ∨ Cw.isCsr w = true) : d.bru = .brNone := by
  obtain ⟨-, -, -, hx⟩ := decode_groups hd
  exact hx.resolve_right fun hnone => (decodeMau_isMemNone (decode_mau hd)).1 hnone h

theorem decode_mau_of_isLoad {w : Cw} {d : Decoded} (hd : decode w = .ok d) (h : Cw.isLoad w = true) :
    d.mau = decodeLoad (Cw.fsel w) := by
  obtain ⟨-, -, -, hm⟩ | ⟨hl, -⟩ | ⟨hl, -⟩ | ⟨hl, -⟩ := decodeMau_ok (decode_mau hd)
  · exact hm
  all_goals exact absurd (h.symm.trans hl) nofun

theorem decode_mau_of_isStore {w : Cw} {d : Decoded} (hd : decode w = .ok d) (h : Cw.isStore w = true) :
    d.mau = decodeStore (Cw.fsel w) := by
  obtain ⟨-, hs, -⟩ | ⟨-, -, -, hm⟩ | ⟨-, hs, -⟩ | ⟨-, hs, -⟩ := decodeMau_ok (decode_mau hd)
  · exact absurd (h.symm.trans hs) nofun
  · exact hm
  all_goals exact absurd (h.symm.trans hs) nofun

/-! ## Extension of the bits read -/

theorem signExtendFrom_byte_setWidth (b : Byte) : signExtendFrom .byte (b.setWidth 32) = b.signExtend 32 := by
  rw [signExtendFrom, BitVec.setWidth_setWidth_of_le _ (by decide), BitVec.setWidth_eq]

theorem signExtendFrom_half_setWidth (x : BitVec 16) :
    signExtendFrom .half (x.setWidth 32) = x.signExtend 32 := by
  rw [signExtendFrom, BitVec.setWidth_setWidth_of_le _ (by decide), BitVec.setWidth_eq]

theorem zeroExtendFrom_byte_setWidth (b : Byte) : zeroExtendFrom .byte (b.setWidth 32) = b.setWidth 32 := by
  rw [zeroExtendFrom, BitVec.setWidth_setWidth_of_le b (by decide), BitVec.setWidth_eq]

theorem zeroExtendFrom_half_setWidth (x : BitVec 16) :
    zeroExtendFrom .half (x.setWidth 32) = x.setWidth 32 := by
  rw [zeroExtendFrom, BitVec.setWidth_setWidth_of_le x (by decide), BitVec.setWidth_eq]

theorem zeroExtendFrom_byte_eq_extract (v : Word) :
    zeroExtendFrom .byte v = (v.extractLsb' 0 8).setWidth 32 := by
  rw [zeroExtendFrom, setWidth_eq_extract]

theorem zeroExtendFrom_half_eq_extract (v : Word) :
    zeroExtendFrom .half v = (v.extractLsb' 0 16).setWidth 32 := by
  rw [zeroExtendFrom, BitVec.setWidth_eq_extractLsb' (x := v) (by decide)]

namespace Machine

variable {s t : State} {i : Instr} {w : Width}

/-! ## Loads -/

/-- An admitted load whose bytes read as `v` delivers `v` extended, and notes the request. -/
theorem loadAccess_of_memRead {ext : Width → Word → Word} {v x : Word}
    (ha : s.cfg.admits s.result w .load = true) (hv : memRead s s.result w = v) (hx : ext w v = x) :
    loadAccess w ext s = .next { s with result := x, memReq := some (.read s.result w v) } := by
  rw [← hx, ← hv]
  exact loadAccess_of_admits ext ha

/-- Settles O30: both rows are `loadAccess` with sign extension of the byte or halfword read. -/
theorem signedLoads : Obligations.SignedLoads := by
  refine ⟨selectedByMemBits_of_memBits rfl rfl fun _ => rfl,
    selectedByMemBits_of_memBits rfl rfl fun _ => rfl, fun s => ⟨fun ha => ?_, fun ha => ?_⟩⟩
  · exact loadAccess_of_memRead ha (memRead_byte s _) (signExtendFrom_byte_setWidth _)
  · exact loadAccess_of_memRead ha (memRead_half s _) (signExtendFrom_half_setWidth _)

/-- Settles O31: the rows are `loadAccess` with zero extension, which leaves a word as it stands. -/
theorem unsignedLoads : Obligations.UnsignedLoads := by
  refine ⟨selectedByMemBits_of_memBits rfl rfl fun _ => rfl,
    selectedByMemBits_of_memBits rfl rfl fun _ => rfl,
    selectedByMemBits_of_memBits rfl rfl fun _ => rfl,
    fun s => ⟨fun ha => ?_, fun ha => ?_, fun ha => ?_⟩⟩
  · exact loadAccess_of_memRead ha (memRead_byte s _) (zeroExtendFrom_byte_setWidth _)
  · exact loadAccess_of_memRead ha (memRead_half s _) (zeroExtendFrom_half_setWidth _)
  · exact loadAccess_of_memRead ha (memRead_word s _) rfl

/-! ## Stores -/

/-- The rows with a store width are the three stores of the MAU. -/
theorem exec_of_storeWidth (h : i.storeWidth = some w) :
    i.group = .mau ∧ ∀ s, exec i s = storeAccess w s := by
  cases i with
  | memSb | memSh | memSw => cases h; exact ⟨rfl, fun _ => rfl⟩
  | _ => cases h

/-- Settles O32: each store row is `storeAccess` of its width, which outside the window writes memory. -/
theorem storesWriteTheirBytes : Obligations.StoresWriteTheirBytes := by
  refine ⟨selectedByMemBits_of_memBits rfl rfl fun _ => rfl,
    selectedByMemBits_of_memBits rfl rfl fun _ => rfl,
    selectedByMemBits_of_memBits rfl rfl fun _ => rfl, fun i w hiw s hc ha => ?_⟩
  have hwidth : i.storeWidth = some w := by
    simp only [List.mem_cons, Prod.mk.injEq, List.not_mem_nil, or_false] at hiw
    obtain ⟨rfl, rfl⟩ | ⟨rfl, rfl⟩ | ⟨rfl, rfl⟩ := hiw <;> rfl
  obtain ⟨-, hexec⟩ := exec_of_storeWidth hwidth
  exact ⟨_, (hexec s).trans (storeAccess_of_admits hc ha), memWrite_read_at s s.result w s.v2,
    fun x hx => memWrite_read_other s s.result x w s.v2 hx⟩

/-- A write to the console leaves every byte of memory alone (R59). -/
theorem readByte_consoleWrite (s : State) (w : Width) (v x : Word) :
    readByte (consoleWrite s w v) x = readByte s x := readByte_congr rfl

/-- Settles O46: outside the window a store writes its own bytes, inside it memory is left alone. -/
theorem storeFrame : Obligations.StoreFrame := by
  intro i w s t hw h
  obtain ⟨hg, hexec⟩ := exec_of_storeWidth hw
  obtain ⟨hfront, hred⟩ := exec_mau_frontEnd hg h
  have hin := exec_sameInputs h
  obtain ⟨hc, rfl⟩ | ⟨hc, -, rfl⟩ := storeAccess_next ((hexec s).symm.trans h)
  · refine ⟨?_, rfl, hin, hfront, hred⟩
    rintro a rfl
    exact ⟨fun x _ => readByte_consoleWrite s w _ x, fun _ => ⟨readByte_consoleWrite s w _, rfl⟩,
      fun hout => absurd (hc.symm.trans hout) nofun⟩
  · refine ⟨?_, rfl, hin, hfront, hred⟩
    rintro a rfl
    exact ⟨fun x hx => readByte_congr (memWrite_read_other s _ x w _ hx),
      fun hcon => absurd (hc.symm.trans hcon) nofun, fun _ => ⟨rfl, rfl⟩⟩

/-! ## A store and a load of the same width -/

/-- What a store of some width left at an address is the value's low bits, read back with that width. -/
theorem memRead_memWrite_same (s : State) (a : Word) (w : Width) (v : Word) :
    memRead (memWrite s a w v) a w = zeroExtendFrom w v := by
  have hb : ∀ k < w.bytes,
      readByte (memWrite s a w v) (a + BitVec.ofNat 32 k) = v.extractLsb' (8 * k) 8 :=
    fun _ hk => readByte_memWrite_at s a v hk
  cases w with
  | byte =>
    have h0 := hb 0 (by decide)
    rw [BitVec.add_zero] at h0
    rw [memRead_byte, h0, zeroExtendFrom_byte_eq_extract]
  | half =>
    have h0 := hb 0 (by decide)
    rw [BitVec.add_zero] at h0
    rw [memRead_half, h0, hb 1 (by decide), bytes_append_half v 0, zeroExtendFrom_half_eq_extract]
  | word => exact memRead_word_memWrite_word s a v

/-- A load after a store of its width at the same address: the store leaves the address and the parameters. -/
theorem loadAccess_after_storeAccess {ext : Width → Word → Word} {x : Word}
    (hc : s.cfg.inConsole s.result = false) (ha : s.cfg.admits s.result w .load = true)
    (h : storeAccess w s = .next t) (hx : ext w (zeroExtendFrom w s.v2) = x) :
    ∃ u, loadAccess w ext t = .next u ∧ u.result = x := by
  obtain ⟨hin, -⟩ | ⟨-, -, rfl⟩ := storeAccess_next h
  · exact absurd (hc.symm.trans hin) nofun
  · exact ⟨_, loadAccess_of_memRead ha (memRead_memWrite_same s s.result w s.v2) hx, rfl⟩

/-- Settles O36: the load extends the low bits that the store left. -/
theorem storeThenLoadRoundTrip : Obligations.StoreThenLoadRoundTrip := by
  intro s t hc
  have hbyte := zeroExtendFrom_byte_eq_extract s.v2
  have hhalf := zeroExtendFrom_half_eq_extract s.v2
  refine ⟨fun ha h => ⟨?_, ?_⟩, fun ha h => ⟨?_, ?_⟩, fun ha h => ?_⟩
  · exact loadAccess_after_storeAccess hc ha h (by rw [hbyte, signExtendFrom_byte_setWidth])
  · exact loadAccess_after_storeAccess hc ha h (by rw [hbyte, zeroExtendFrom_byte_setWidth])
  · exact loadAccess_after_storeAccess hc ha h (by rw [hhalf, signExtendFrom_half_setWidth])
  · exact loadAccess_after_storeAccess hc ha h (by rw [hhalf, zeroExtendFrom_half_setWidth])
  · exact loadAccess_after_storeAccess hc ha h rfl

/-! ## The rejected selectors -/

theorem exec_decodeLoad_reserved {k : BitVec 3} (hk : k.toNat ∈ [3, 6, 7]) (s : State) :
    exec (decodeLoad k) s = raise (.badWidthSelector .load k) s := by
  obtain ⟨n, hn, rfl⟩ : ∃ n < 8, k = BitVec.ofNat 3 n := ⟨k.toNat, k.isLt, by simp⟩
  rw [BitVec.toNat_ofNat, Nat.mod_eq_of_lt hn] at hk
  simp only [List.mem_cons, List.not_mem_nil, or_false] at hk
  obtain rfl | rfl | rfl := hk <;> rfl

theorem exec_decodeStore_reserved {k : BitVec 3} (hk : 3 ≤ k.toNat) (s : State) :
    exec (decodeStore k) s = raise (.badWidthSelector .store k) s := by
  obtain ⟨n, hn, rfl⟩ : ∃ n < 8, k = BitVec.ofNat 3 n := ⟨k.toNat, k.isLt, by simp⟩
  rw [BitVec.toNat_ofNat, Nat.mod_eq_of_lt hn] at hk
  interval_cases n <;> rfl

/-- A fault raised by the MAU row of a word that is no branch, after an ALU row that completes, ends the step
with nothing of it committed (R244, R245). -/
theorem step_of_mau_raise {slot : Slot} {d : Decoded} {f : InternalFault} (hs : Holds s slot d)
    (ha : exec d.alu (beginStep s slot.cw) = .next t) (hb : d.bru = .brNone)
    (hm : exec d.mau t = raise f t) : step s = .fault (.internal f (recordFault s f)) := by
  have hbru : exec d.bru t = .next t := by rw [hb]; rfl
  rw [step, stage_of_holds hs, runUnits, ha, andThen_of_next, hbru, andThen_of_next, hm]
  rfl

/-- Settles O34: the word is no branch, its ALU row completes, and its MAU row is that of its rejected
selector. -/
theorem reservedSelectorsFault : Obligations.ReservedSelectorsFault := by
  refine ⟨fun s => ⟨rfl, rfl, rfl, rfl, rfl, rfl, rfl, rfl⟩, fun s slot d k hs halu hsel => ?_⟩
  have ⟨_, _, hd⟩ := hs
  obtain ⟨hg, -⟩ := decode_groups hd
  have hr : d.alu.isReserved = false := by
    rw [decode_alu hd]
    exact decodeAlu_isReserved_eq_false halu _
  obtain ⟨v, ha⟩ := exec_alu_completes hg hr (beginStep s slot.cw)
  obtain ⟨rfl, hl, hk⟩ | ⟨rfl, hst, hk⟩ := hsel
  · apply step_of_mau_raise hs ha (bru_eq_brNone_of_class hd (.inl hl))
    rw [decode_mau_of_isLoad hd hl]
    exact exec_decodeLoad_reserved hk _
  · apply step_of_mau_raise hs ha (bru_eq_brNone_of_class hd (.inr (.inl hst)))
    rw [decode_mau_of_isStore hd hst]
    exact exec_decodeStore_reserved hk _

/-! ## The CSR row -/

/-- Settles O40: the outcomes of the CSR path, by what the gate's list says of the address. -/
theorem csrRowReadsThenWrites : Obligations.CsrRowReadsThenWrites := by
  intro s fsel a
  refine ⟨fun n hl h => ?_, fun n hl hn hv => csrAccess_of_counter hl hn hv,
    fun hl => csrAccess_of_unlisted hl⟩
  obtain hn | hv := h
  · exact csrAccess_of_control hl hn
  · exact csrAccess_of_unchanged hl hv

/-! ## The ports of one step -/

/-- The stage in a state that holds a word runs the word's units: the ALU's value `x`, then the BRU row, then
the MAU row. -/
theorem stage_next_of_holds {slot : Slot} {d : Decoded} (hs : Holds s slot d) (h : stage s = .next t) :
    ∃ x v, exec d.bru (setResult (beginStep s slot.cw) x) = .next v ∧ exec d.mau v = .next t := by
  have ⟨_, _, hd⟩ := hs
  obtain ⟨hga, -⟩ := decode_groups hd
  rw [stage_of_holds hs, commit_next] at h
  obtain ⟨u, hu, h⟩ := andThen_next h
  obtain ⟨x, rfl⟩ := exec_alu_next hga hu
  obtain ⟨v, hv, h⟩ := andThen_next h
  exact ⟨x, v, hv, h⟩

/-- A BRU row makes no request, and the row `NONE` does not redirect. -/
theorem exec_bru_ports (hg : i.group = .bru) (h : exec i s = .next t) :
    t.memReq = s.memReq ∧ t.cout = s.cout ∧ (i = .brNone → t.redirect = s.redirect) := by
  obtain ⟨x, rfl | ⟨hne, -, rfl⟩⟩ := exec_bru_next hg h
  · exact ⟨rfl, rfl, fun _ => rfl⟩
  · exact ⟨rfl, rfl, fun he => absurd he hne⟩

/-- A MAU row leaves the memory port or the console port as it was. -/
theorem exec_mau_one_port (hg : i.group = .mau) (h : exec i s = .next t) :
    t.memReq = s.memReq ∨ t.cout = s.cout := by
  obtain ⟨w, -, hst⟩ | ⟨req, x, rfl⟩ := exec_mau_next hg h
  · obtain ⟨-, rfl⟩ | ⟨-, -, rfl⟩ := storeAccess_next hst
    · exact .inl rfl
    · exact .inr rfl
  · exact .inr rfl

/-- Settles O50: the MAU finds the ports of requests cleared, and the redirect port as the BRU left it. -/
theorem atMostOneRequestPerStep : Obligations.AtMostOneRequestPerStep := by
  intro s t slot d hs h
  have ⟨_, _, hd⟩ := hs
  obtain ⟨-, hgb, hgm, -⟩ := decode_groups hd
  obtain ⟨x, v, hb, hm⟩ := stage_next_of_holds hs h
  obtain ⟨hreq, hcout, hred⟩ := exec_bru_ports hgb hb
  obtain ⟨-, hkeep⟩ := exec_mau_frontEnd hgm hm
  refine ⟨(exec_mau_one_port hgm hm).imp (·.trans hreq) (·.trans hcout), fun hw => ?_, fun hw hl => ?_,
    fun hn => hkeep.trans (hred hn)⟩
  · obtain ⟨-, -, hc⟩ := exec_memory_console_of_not_store hw hm
    exact hc.trans hcout
  · exact (exec_mau_memReq hgm hw hl hm).trans hreq

end Machine

end Sys2Proof
end

section
/-! PROOF of the CSR statements O38, O39, O41, O42 and O43: what the gate answers for each address, and the
step on a CSR-class word as its ALU row followed by the CSR path. -/

namespace Sys2Proof

/-- The CSR address is the field of 12 bits from bit 33 on: the upper bits of the immediate do not count (D15). -/
theorem Cw.csrAddr_eq_extract (w : Cw) : Cw.csrAddr w = w.extractLsb' 33 12 := by
  apply BitVec.eq_of_toNat_eq
  rw [Cw.csrAddr, Cw.imm]
  simp only [extractLsb'_toNat_eq]
  omega

namespace Machine

variable {s : State} {a : CsrAddr} {n : CsrName}

/-! ## The gate -/

theorem csrRead_of_unlisted (h : s.cfg.csrAddr.lookup a = none) :
    csrRead s a = .error (.csrReadDenied a) := by
  simp [csrRead, h]

theorem csrWrite_of_counter (h : s.cfg.csrAddr.lookup a = some n) (hn : n.isControl = false) (v : Word) :
    csrWrite s a v = .error (.csrWriteDenied a v) := by
  simp [csrWrite, h, hn]

theorem csrWrite_of_unlisted (h : s.cfg.csrAddr.lookup a = none) (v : Word) :
    csrWrite s a v = .error (.csrWriteDenied a v) := by
  simp [csrWrite, h]

/-- Settles O38: distinct addresses are found again under their names, and each name has its value. -/
theorem csrGateReads : Obligations.CsrGateReads := by
  intro s hnd
  have hread (n : CsrName) : csrRead s (s.cfg.csrAddr.addr n) = .ok (csrValue s n) :=
    csrRead_of_lookup (lookup_addr _ hnd n)
  refine ⟨fun n hn => ?_, hread .mcycle, hread .mcycleh, hread .minstret, hread .minstreth, fun a ha => ?_⟩
  · rw [hread, csrValue_control s hn]
  · exact csrRead_of_unlisted (lookup_none _ a ha)

/-- Settles O39: by the group of the name that an address is found under, and for an address of no name. -/
theorem csrGateWrites : Obligations.CsrGateWrites := by
  intro s v hnd
  exact ⟨fun n hn => csrWrite_of_control (lookup_addr _ hnd n) hn v,
    fun n hn => csrWrite_of_counter (lookup_addr _ hnd n) hn v,
    fun a ha => csrWrite_of_unlisted (lookup_none _ a ha) v⟩

/-! ## The step on a CSR-class word -/

/-- The ALU row of a word with a tag up to 10 is a defined one (R84). -/
theorem decode_alu_isReserved_eq_false {w : Cw} {d : Decoded} (hd : decode w = .ok d)
    (h : (Cw.aluOp w).toNat ≤ 10) : d.alu.isReserved = false := by
  rw [decode_alu hd]
  exact decodeAlu_isReserved_eq_false h _

/-- The second operand value of a word with a CSR row is the addressed CSR (D18). -/
theorem secondValue_of_memCsr {cw : Cw} {d : Decoded} {fsel : BitVec 3} (hd : decode cw = .ok d)
    (hm : d.mau = .memCsr fsel a) (hl : s.cfg.csrAddr.lookup a = some n) :
    secondValue s cw = csrValue s n := by
  obtain ⟨hcsr, -, rfl⟩ := (decode_memCsr hd fsel a).1 hm
  exact secondValue_csr hcsr hl

/-- The stage on a word with a defined ALU row and a CSR row: the word is no branch (R90), so the CSR path takes
the value `x` from the ALU row as it stands. -/
theorem stage_of_memCsr {slot : Slot} {d : Decoded} {fsel : BitVec 3} (hs : Holds s slot d)
    (hr : d.alu.isReserved = false) (hm : d.mau = .memCsr fsel a) :
    ∃ x, exec d.alu (beginStep s slot.cw) = .next (setResult (beginStep s slot.cw) x) ∧
      stage s = commit s (csrAccess a (setResult (beginStep s slot.cw) x)) := by
  have ⟨_, _, hd⟩ := hs
  obtain ⟨hg, -⟩ := decode_groups hd
  obtain ⟨hcsr, -, -⟩ := (decode_memCsr hd fsel a).1 hm
  obtain ⟨x, ha⟩ := exec_alu_completes hg hr (beginStep s slot.cw)
  have hbru (t : State) : exec d.bru t = .next t := by
    rw [bru_eq_brNone_of_class hd (.inr (.inr hcsr))]
    rfl
  refine ⟨x, ha, ?_⟩
  rw [stage_of_holds hs, runUnits, ha, andThen_of_next, hbru, andThen_of_next, hm]
  rfl

/-- Settles O41: the path completes with the second operand value, which is the CSR's value 0. -/
theorem controlCsrStepReadsZero : Obligations.ControlCsrStepReadsZero := by
  intro s slot d fsel a n hs hr hm hl hn
  have ⟨_, _, hd⟩ := hs
  have hv : secondValue s slot.cw = 0#32 :=
    (secondValue_of_memCsr hd hm hl).trans (csrValue_control s hn)
  obtain ⟨x, -, hstage⟩ := stage_of_memCsr hs hr hm
  have hl' : (setResult (beginStep s slot.cw) x).cfg.csrAddr.lookup a = some n := hl
  rw [hstage, csrAccess_of_control hl' hn, setResult_v2, beginStep_v2, hv, beginStep, hv]
  rfl

/-- Settles O42: the path compares the ALU's value with the second operand value, which is the counter half. -/
theorem counterCsrStep : Obligations.CounterCsrStep := by
  intro s slot d fsel a n hs hr hm hl hn
  have ⟨_, _, hd⟩ := hs
  have hv : (beginStep s slot.cw).v2 = csrValue s n := secondValue_of_memCsr hd hm hl
  obtain ⟨x, ha, hstage⟩ := stage_of_memCsr hs hr hm
  have hl' : (setResult (beginStep s slot.cw) x).cfg.csrAddr.lookup a = some n := hl
  refine ⟨x, ha, hv, fun hx => ?_, fun hx => ?_⟩
  · rw [hstage, csrAccess_of_unchanged hl' (hx.trans hv.symm), setResult_v2, hv]
    rfl
  · rw [hstage, csrAccess_of_counter hl' hn fun he => hx (he.trans hv)]
    rfl

/-- Settles O43: the read is denied before the path looks at what it would write. -/
theorem unlistedCsrStepFaults : Obligations.UnlistedCsrStepFaults := by
  intro s slot d hs htag hcsr hout
  have ⟨_, _, hd⟩ := hs
  rw [← Cw.csrAddr_eq_extract] at hout ⊢
  obtain ⟨x, -, hstage⟩ := stage_of_memCsr hs (decode_alu_isReserved_eq_false hd htag)
    ((decode_memCsr hd _ _).2 ⟨hcsr, rfl, rfl⟩)
  have hl : (setResult (beginStep s slot.cw) x).cfg.csrAddr.lookup (Cw.csrAddr slot.cw) = none :=
    lookup_none _ _ hout
  rw [step, hstage, csrAccess_of_unlisted hl]
  rfl

end Machine

end Sys2Proof
end

section
/-! PROOF of the statements O7, O8, O44, O51, O55 and O58 about the stage and the step: the order of the units,
what a fault and a correction leave to the next cycle, and where the second operand value comes from. -/

namespace Sys2Proof.Machine

variable {s t u : State} {slot : Slot} {d : Decoded} {i : Instr}

/-! ## The order of the units -/

theorem step_of_holds (hs : Holds s slot d) :
    step s = advance (commit s (runUnits d (beginStep s slot.cw))) := by
  rw [step, stage_of_holds hs]

/-- Past a completed ALU row the BRU row runs, then the MAU row (R241). -/
theorem runUnits_of_alu (ha : exec d.alu s = .next t) :
    runUnits d s = andThen (exec d.bru t) (exec d.mau) := by
  rw [runUnits, ha, andThen_of_next]

/-- Past a completed ALU row and a completed BRU row the outcome is the MAU row's (R241). -/
theorem runUnits_of_alu_bru (ha : exec d.alu s = .next t) (hb : exec d.bru t = .next u) :
    runUnits d s = exec d.mau u := by
  rw [runUnits_of_alu ha, hb, andThen_of_next]

/-- Settles O7: the outcome of the unit that the run ends in goes through `commit` and `advance`. -/
theorem stepRunsTheDecodedRows : Obligations.StepRunsTheDecodedRows := by
  intro s slot d hs
  have hstep := step_of_holds hs
  refine ⟨hstep, fun t u v ha hb hm => ?_, fun f a ha => ?_, fun t f a ha hb => ?_,
    fun t u f a ha hb hm => ?_, fun t u a w k ha hb hm => ?_⟩
  · rw [hstep, runUnits_of_alu_bru ha hb, hm]; rfl
  · rw [hstep, runUnits, ha]; rfl
  · rw [hstep, runUnits_of_alu ha, hb]; rfl
  · rw [hstep, runUnits_of_alu_bru ha hb, hm]; rfl
  · rw [hstep, runUnits_of_alu_bru ha hb, hm]; rfl

/-- Settles O8: the stage leaves a bubble as it is, and the step only moves on. -/
theorem emptyLatchIsABubble : Obligations.EmptyLatchIsABubble := by
  intro s hf hx
  have hstage := stage_of_empty hf hx
  exact ⟨hstage, advance_next.2 ⟨s, hstage, rfl⟩⟩

/-! ## What a fault leaves -/

theorem advance_fault {o : Host.Outcome State Fault Refusal} {f : Fault} :
    advance o = .fault f ↔ o = .fault f := by
  cases o <;> simp [advance]

/-- Settles O51: a fault of the step is one of the stage, with no next cycle to move on to. -/
theorem faultsCommitNothing : Obligations.FaultsCommitNothing := fun _ _ _ h =>
  stage_internal (advance_fault.1 h)

/-! ## What a correction leaves -/

/-- A stage that completes with a word in the latch has accepted that word. -/
theorem holds_of_stage_next (hx : s.idex = some slot) (h : stage s = .next t) :
    ∃ d, Holds s slot d := by
  obtain ⟨hf, ⟨hnone, -⟩ | ⟨slot', d, _, _, hx', hd, -⟩⟩ := stage_next h
  · cases hx.symm.trans hnone
  · cases hx.symm.trans hx'
    exact ⟨d, hf, hx, hd⟩

/-- The step starts with the redirect port cleared, so a target there at the end of the stage is that of a
correction, which stands in full (R163). -/
theorem corrected_of_redirect {target : Word} (hs : Holds s slot d) (h : stage s = .next t)
    (hr : t.redirect = some target) : t.pc = target ∧ t.ifid = none ∧ t.fetchStalled = false := by
  have ⟨_, _, hd⟩ := hs
  obtain ⟨-, hgb, hgm, -⟩ := decode_groups hd
  obtain ⟨x, v, hb, hm⟩ := stage_next_of_holds hs h
  obtain ⟨⟨hpc, hifid, hstall⟩, hred⟩ := exec_mau_frontEnd hgm hm
  rw [hred] at hr
  obtain ⟨y, rfl | ⟨-, -, rfl⟩⟩ := exec_bru_next hgb hb
  · cases hr
  · cases hr
    exact ⟨hpc, hifid, hstall⟩

/-- Without an update by the front end its registers pass to the next cycle as they are. -/
theorem nextCycle_sameFrontEnd (h : ∀ c rest, s.env = c :: rest → c.front = none) :
    SameFrontEnd s (nextCycle s) := by
  cases he : s.env with
  | nil => simp [SameFrontEnd, nextCycle, he]
  | cons c rest => simp [SameFrontEnd, nextCycle, he, h c rest he, applyFront]

/-- Settles O55: the stage leaves the schedule as it is (O47), so the front end makes no update over the
correction. -/
theorem correctionIsVisibleNextCycle : Obligations.CorrectionIsVisibleNextCycle := by
  intro s t slot target hx h hr henv
  obtain ⟨d, hs⟩ := holds_of_stage_next hx h
  obtain ⟨hpc, hifid, hstall⟩ := corrected_of_redirect hs h hr
  obtain ⟨-, -, -, -, -, hkept, -⟩ := stageKeepsItsInputs s t h
  obtain ⟨hpc', hifid', hstall'⟩ := nextCycle_sameFrontEnd (s := t) (by rwa [hkept])
  exact ⟨nextCycle t, advance_next.2 ⟨t, h, rfl⟩, hpc'.trans hpc, hifid'.trans hifid,
    hstall'.trans hstall⟩

/-! ## What an ALU row reads -/

/-- An ALU row commutes with every change of the state that leaves its operands and the parameter of `NONE`
alone: its only effect is the value it hands on (R136). -/
theorem exec_alu_mapOutcome {g : State → State} (hg : i.group = .alu)
    (hop : ∀ o, firstOperand o (g s) = firstOperand o s ∧ secondOperand o (g s) = secondOperand o s)
    (hnone : (g s).cfg.noneResult = s.cfg.noneResult)
    (hset : ∀ v, setResult (g s) v = g (setResult s v))
    (hrec : ∀ f, recordFault (g s) f = g (recordFault s f)) :
    exec i (g s) = mapOutcome g (exec i s) := by
  have hcompute (f : Word → Word → Word) (o : AluOperands) :
      aluCompute f o (g s) = mapOutcome g (aluCompute f o s) := by
    obtain ⟨h₁, h₂⟩ := hop o
    rw [aluCompute, h₁, h₂, hset]
    rfl
  have hraise (f : InternalFault) : raise f (g s) = mapOutcome g (raise f s) := by
    rw [raise, hrec]
    rfl
  cases i with
  | aluNone =>
    rw [exec, execAluNone, hnone, hset]
    rfl
  | aluAdd | aluSub | aluAnd | aluOr | aluXor | aluSll | aluSrl | aluSra | aluLt | aluLtu =>
    rw [exec, exec]
    exact hcompute _ _
  | aluReserved11 | aluReserved12 | aluReserved13 | aluReserved14 | aluReserved15 =>
    exact hraise _
  | _ => cases hg

/-! ## The second operand value -/

/-- `s` with the ports of the step before cleared. -/
def clearPorts (s : State) : State :=
  { s with redirect := none, memReq := none, cout := none }

/-- What the gate answers is the second operand value of a CSR-class word (D18). -/
theorem secondValue_of_csrRead {cw : Cw} {v : Word} (h : Cw.isCsr cw = true)
    (hr : csrRead s (Cw.csrAddr cw) = .ok v) : secondValue s cw = v := by
  simp [secondValue, h, hr]

theorem exec_memNone_class (hm : i.isMemNone = true) (s : State) : exec i s = .next s := by
  cases i with
  | memNone => rfl
  | _ => cases hm

/-- The stage on a word with a defined ALU row, no branch and no class is the ALU row alone. -/
theorem stage_of_plain (hs : Holds s slot d) (hb : d.bru = .brNone) (hm : d.mau.isMemNone = true)
    (ha : exec d.alu (beginStep s slot.cw) = .next t) : stage s = .next t := by
  have hbru : exec d.bru t = .next t := by rw [hb]; rfl
  rw [stage_of_holds hs, commit_next, runUnits_of_alu_bru ha hbru, exec_memNone_class hm]

/-- Settles O58: the step starts from `v2 = rs2Value` with the ports cleared, and the ALU row reads no port. -/
theorem secondOperandValueIsRs2Value : Obligations.SecondOperandValueIsRs2Value := by
  intro s slot d hs
  have ⟨_, _, hd⟩ := hs
  refine ⟨fun hc => ?_, fun hc v hv => ?_, fun hr hb hm => ?_⟩
  · have hv2 : (beginStep s slot.cw).v2 = s.rs2Value := secondValue_register hc s
    exact ⟨hv2, fun o => by rw [secondOperand, hv2]⟩
  · rw [← Cw.csrAddr_eq_extract] at hv
    exact secondValue_of_csrRead hc hv
  · obtain ⟨hga, -⟩ := decode_groups hd
    have hcsr : Cw.isCsr slot.cw = false := by
      have hclass := (decodeMau_isMemNone (decode_mau hd)).1 hm
      simpa using fun h => hclass (.inr (.inr h))
    have hbegin : beginStep s slot.cw = clearPorts { s with v2 := s.rs2Value } := by
      rw [beginStep, secondValue_register hcsr]
      rfl
    obtain ⟨x, hx⟩ := exec_alu_completes hga hr { s with v2 := s.rs2Value }
    refine ⟨x, hx, stage_of_plain hs hb hm ?_⟩
    rw [hbegin, exec_alu_mapOutcome hga (fun _ => ⟨rfl, rfl⟩) rfl (fun _ => rfl) (fun _ => rfl), hx]
    rfl

/-! ## The second register value and the CSR-class words -/

/-- The CSR path on a listed address: only a changed value for a counter half is denied (R193, R216). -/
theorem csrAccess_of_lookup {a : CsrAddr} {n : CsrName} (h : s.cfg.csrAddr.lookup a = some n) :
    csrAccess a s = if s.result = s.v2 ∨ n.isControl = true then .next (setResult s s.v2)
      else raise (.csrWriteDenied a s.result) s := by
  split
  case isTrue hc =>
    obtain hv | hn := hc
    · exact csrAccess_of_unchanged h hv
    · exact csrAccess_of_control h hn
  case isFalse hc =>
    obtain ⟨hv, hn⟩ := not_or.1 hc
    exact csrAccess_of_counter h (by simpa using hn) hv

/-- `s` with another value of the input `rs2Value`. -/
def setRs2 (x : Word) (s : State) : State := { s with rs2Value := x }

variable (x : Word)

theorem csrAccess_setRs2 (a : CsrAddr) (s : State) :
    csrAccess a (setRs2 x s) = mapOutcome (setRs2 x) (csrAccess a s) := by
  cases hl : s.cfg.csrAddr.lookup a with
  | none =>
    rw [csrAccess_of_unlisted hl]
    exact csrAccess_of_unlisted hl
  | some n =>
    rw [csrAccess_of_lookup hl, apply_ite (mapOutcome (setRs2 x))]
    exact csrAccess_of_lookup hl

/-- A CSR-class word takes its second operand value from the gate, which does not read `rs2Value` (D18). -/
theorem beginStep_setRs2 {cw : Cw} (h : Cw.isCsr cw = true) (s : State) :
    beginStep (setRs2 x s) cw = setRs2 x (beginStep s cw) := by
  have hv : secondValue (setRs2 x s) cw = secondValue s cw := by
    rw [secondValue, secondValue, if_pos h, if_pos h]
    rfl
  rw [beginStep, hv]
  rfl

/-- A CSR-class word is no branch (R90), so none of its units reads `rs2Value`. -/
theorem runUnits_setRs2 {cw : Cw} (hd : decode cw = .ok d) (h : Cw.isCsr cw = true) (s : State) :
    runUnits d (setRs2 x s) = mapOutcome (setRs2 x) (runUnits d s) := by
  obtain ⟨hga, -⟩ := decode_groups hd
  have hbru : d.bru = .brNone := bru_eq_brNone_of_class hd (.inr (.inr h))
  have hmau : d.mau = .memCsr (Cw.fsel cw) (Cw.csrAddr cw) := (decode_memCsr hd _ _).2 ⟨h, rfl, rfl⟩
  rw [runUnits, runUnits,
    exec_alu_mapOutcome hga (fun _ => ⟨rfl, rfl⟩) rfl (fun _ => rfl) (fun _ => rfl), andThen_mapOutcome]
  intro v
  rw [hbru, hmau]
  exact csrAccess_setRs2 x _ v

theorem stage_setRs2 (hx : s.idex = some slot) (h : Cw.isCsr slot.cw = true) :
    stage (setRs2 x s) = mapOutcome (setRs2 x) (stage s) := by
  cases hf : s.fault with
  | some f =>
    rw [stage_of_fault hf]
    exact stage_of_fault hf
  | none =>
    cases hd : decode slot.cw with
    | error e =>
      rw [stage_of_decode_error hf hx hd]
      exact stage_of_decode_error hf hx hd
    | ok d =>
      have hholds : Holds (setRs2 x s) slot d := ⟨hf, hx, hd⟩
      rw [stage_of_holds hholds, stage_of_holds ⟨hf, hx, hd⟩, ← commit_mapOutcome fun _ => rfl,
        ← runUnits_setRs2 x hd h, beginStep_setRs2 x h]

/-- Settles O44: the outcome from the changed state is the outcome with its state changed. -/
theorem csrWordsIgnoreTheSecondRegister : Obligations.CsrWordsIgnoreTheSecondRegister := by
  intro s slot x hx hc
  have hstage := stage_setRs2 x hx hc
  exact ⟨fun _ h => hstage.trans (congrArg (mapOutcome (setRs2 x)) h),
    fun _ _ h => hstage.trans (congrArg (mapOutcome (setRs2 x)) h)⟩

end Sys2Proof.Machine
end
